-- ==== Sys2Proof/Word.lean ====
section
/-! DEFINITION. The bit vectors of the model. Operands, value codes and sample codes are naturals
(R11: "All values are mathematical naturals, integers or rationals, with no implicit width"); only a byte
of a frame and the 64-bit request word are words the spec treats as bits. -/

namespace Sys2Proof

/-- One byte of a frame on its way to the transport (R62, R63). -/
abbrev Byte := BitVec 8

/-- The 64-bit request word (R84). -/
abbrev ReqWord := BitVec 64

end Sys2Proof
end

