-- ==== Sys2Proof/Config.lean ====
section
/-! DEFINITION. What an implementation fixes: the closed enumerations the parameters speak of (R15), the
ADC configuration record (R22), the parameter record `Profile` (R6 to R9) as PLAIN DATA, and the free values:
opaque constants for what the spec leaves OPEN, so that nothing can be proved about their value.
The functions that read a `Profile` stand in `Machine/ProfileOps.lean`, and the reference profile P0 in
`Machine/ReferenceProfile.lean`. -/

namespace Sys2Proof

/-- The twelve command codes, in the document's order (R81). -/
inductive CommandCode where
  | nop | write | update | writeUpdate | powerDown | ldacMask | swReset | gain | dcen | readback
  | updateAllCh | updateAllDac
  deriving DecidableEq, Repr

/-- The thirteen configuration axes (R22). -/
inductive Axis where
  | convMode | dataRate1 | dataRate2 | filter | errCheck | power | idacMag | idacMux | refSrc | diff | rtd
  | pga | adcCh
  deriving DecidableEq, Repr

/-- START's mode operand (R202). -/
inductive ConvMode where
  | singleShot | continuous
  deriving DecidableEq, Repr

/-- A converter core of the ADC, "two cores with independent rate tables" (R22, R152). -/
inductive ConverterCore where
  | core1 | core2
  deriving DecidableEq, Repr

/-- The two error-check algorithms a sample can carry (R9, R245). -/
inductive CheckMode where
  | checksum | crc
  deriving DecidableEq, Repr

/-- The ADC configuration: one value code per axis (R22, R23; the spec's `Config`). -/
structure AdcConfig where
  convMode  : Nat
  dataRate1 : Nat
  dataRate2 : Nat
  filter    : Nat
  errCheck  : Nat
  power     : Nat
  idacMag   : Nat
  idacMux   : Nat
  refSrc    : Nat
  diff      : Nat
  rtd       : Nat
  pga       : Nat
  adcCh     : Nat
  deriving DecidableEq, Repr

/-- The abstract frame RENDER emits for one axis (R166). -/
structure AxisWrite where
  axis : Axis
  code : Nat
  deriving DecidableEq, Repr

/-- `CODE` of R7: the command-field value of each command code. -/
structure CodeTable where
  nop          : Nat
  write        : Nat
  update       : Nat
  writeUpdate  : Nat
  powerDown    : Nat
  ldacMask     : Nat
  swReset      : Nat
  gain         : Nat
  dcen         : Nat
  readback     : Nat
  updateAllCh  : Nat
  updateAllDac : Nat
  deriving DecidableEq, Repr

/-- A full-scale reference voltage `VREF(r)` of R8: given, or OPEN (92 D32). -/
inductive RefVoltage where
  | known (volts : Rat)
  | openSource (source : Nat)
  deriving DecidableEq, Repr

/-- One RTD wiring mode k ≥ 1: `SE_ONLY(k)` and `RTD_ROUTING(k)` of R8. -/
structure RtdWiring where
  seOnly  : Bool
  routing : Nat
  deriving DecidableEq, Repr

/-- Names `ADC_FRAME` of R8: P0's function (93 section 3.3), or the function of device number `id`, which the
spec leaves OPEN (92 D17). -/
inductive AdcFrameFn where
  | p0
  | device (id : Nat)
  deriving DecidableEq, Repr

/-- Names `CHECK_FN` of R9: P0's function (93 section 3.4), or the function of device number `id`, which the
spec leaves OPEN (92 D28). -/
inductive CheckFn where
  | p0
  | device (id : Nat)
  deriving DecidableEq, Repr

/-- The parameter record of R6 to R9. `N_REF` is the length of `vrefs`, `N_RTD` the length of `rtdWirings` and
`FRAME_W` is derived (R7). -/
structure Profile where
  cmdW          : Nat
  addrW         : Nat
  dataW         : Nat
  codes         : CodeTable
  numDacCh      : Nat
  broadcastAddr : Nat
  resetData     : Nat
  drTable1      : List Rat
  drTable2      : List Rat
  nFilter       : Nat
  nPower        : Nat
  nIdacMag      : Nat
  nIdacMux      : Nat
  vrefs         : List RefVoltage
  nDiff         : Nat
  rtdWirings    : List RtdWiring
  gains         : List Nat
  nAdcCh        : Nat
  cfgReset      : AdcConfig
  adcFrameFn    : AdcFrameFn
  startFrame    : List Byte
  stopFrame     : List Byte
  resSet        : List Nat
  checkW        : Nat
  checkFn       : CheckFn
  rRef          : Rat
  /-- `T_SETTLE`, the settling time the caller or transport must leave between the POWER frame and the data-rate
  frames: "No rule of the core depends on it" (R328). -/
  tSettle       : Option Rat
  deriving DecidableEq, Repr

/-- FREE VALUE (log 3). `ADC_FRAME` of a device whose register map no document gives (R168, 92 D17). -/
opaque Config.deviceAdcFrame : Nat → AxisWrite → AdcConfig → List Byte

/-- FREE VALUE (log 3). `CHECK_FN` of a device whose algorithm no document gives (R245, 92 D28), before it is
cut to `CHECK_W` bits. -/
opaque Config.deviceCheck : Nat → CheckMode → List Byte → Nat

/-- FREE VALUE (log 4). One less than the numerator of an OPEN reference voltage (R243, 92 D32). -/
opaque Config.openVrefNum : Nat → Nat

/-- FREE VALUE (log 4). One less than the denominator of an OPEN reference voltage (R243, 92 D32). -/
opaque Config.openVrefDen : Nat → Nat

end Sys2Proof
end

