-- ==== Sys2Proof/Machine/ProfileOps.lean ====
section
/-! DEFINITION. What the parameter record means: the command codes, the axis domains (R23), the configuration
invariant WF (R25), the device's frame and check functions (R168, R245), gain and reference (R242, R243), and
the well-formedness of a Profile (R10). -/

namespace Sys2Proof

/-- Every command code, in the document's order (R81). -/
def allCommands : List CommandCode :=
  [.nop, .write, .update, .writeUpdate, .powerDown, .ldacMask, .swReset, .gain, .dcen, .readback,
   .updateAllCh, .updateAllDac]

/-- `CODE(c)` (R7, R81). -/
def Profile.code (P : Profile) : CommandCode → Nat
  | .nop          => P.codes.nop
  | .write        => P.codes.write
  | .update       => P.codes.update
  | .writeUpdate  => P.codes.writeUpdate
  | .powerDown    => P.codes.powerDown
  | .ldacMask     => P.codes.ldacMask
  | .swReset      => P.codes.swReset
  | .gain         => P.codes.gain
  | .dcen         => P.codes.dcen
  | .readback     => P.codes.readback
  | .updateAllCh  => P.codes.updateAllCh
  | .updateAllDac => P.codes.updateAllDac

/-- `FRAME_W` (R7). -/
def Profile.frameW (P : Profile) : Nat := P.cmdW + P.addrW + P.dataW

/-- The number of bytes of a DAC frame (R62, R65). -/
def Profile.frameBytes (P : Profile) : Nat := P.frameW / 8

/-- Every axis, in the order of its id (R22). -/
def allAxes : List Axis :=
  [.convMode, .dataRate1, .dataRate2, .filter, .errCheck, .power, .idacMag, .idacMux, .refSrc, .diff, .rtd,
   .pga, .adcCh]

/-- The axis id (R22). -/
def Axis.id : Axis → Nat
  | .convMode => 0 | .dataRate1 => 1 | .dataRate2 => 2 | .filter => 3 | .errCheck => 4 | .power => 5
  | .idacMag => 6 | .idacMux => 7 | .refSrc => 8 | .diff => 9 | .rtd => 10 | .pga => 11 | .adcCh => 12

/-- `cfg.X` (R14, R22). -/
def AdcConfig.get (cfg : AdcConfig) : Axis → Nat
  | .convMode  => cfg.convMode
  | .dataRate1 => cfg.dataRate1
  | .dataRate2 => cfg.dataRate2
  | .filter    => cfg.filter
  | .errCheck  => cfg.errCheck
  | .power     => cfg.power
  | .idacMag   => cfg.idacMag
  | .idacMux   => cfg.idacMux
  | .refSrc    => cfg.refSrc
  | .diff      => cfg.diff
  | .rtd       => cfg.rtd
  | .pga       => cfg.pga
  | .adcCh     => cfg.adcCh

/-- `cfg with X := v` (R150). -/
def AdcConfig.set (cfg : AdcConfig) (X : Axis) (v : Nat) : AdcConfig :=
  match X with
  | .convMode  => { cfg with convMode := v }
  | .dataRate1 => { cfg with dataRate1 := v }
  | .dataRate2 => { cfg with dataRate2 := v }
  | .filter    => { cfg with filter := v }
  | .errCheck  => { cfg with errCheck := v }
  | .power     => { cfg with power := v }
  | .idacMag   => { cfg with idacMag := v }
  | .idacMux   => { cfg with idacMux := v }
  | .refSrc    => { cfg with refSrc := v }
  | .diff      => { cfg with diff := v }
  | .rtd       => { cfg with rtd := v }
  | .pga       => { cfg with pga := v }
  | .adcCh     => { cfg with adcCh := v }

/-- The number of value codes of each axis domain (R23). -/
def Profile.domainSize (P : Profile) : Axis → Nat
  | .convMode  => 2
  | .dataRate1 => P.drTable1.length
  | .dataRate2 => P.drTable2.length
  | .filter    => P.nFilter
  | .errCheck  => 3
  | .power     => P.nPower
  | .idacMag   => P.nIdacMag
  | .idacMux   => P.nIdacMux
  | .refSrc    => P.vrefs.length
  | .diff      => P.nDiff + 1
  | .rtd       => P.rtdWirings.length + 1
  | .pga       => P.gains.length + 1
  | .adcCh     => P.nAdcCh

/-- `in_domain(X, v)` (R23, R150). -/
def Profile.inDomain (P : Profile) (X : Axis) (v : Nat) : Bool := decide (v < P.domainSize X)

/-- The wiring mode k ≥ 1 (R8); code 0 is OFF and has none. -/
def Profile.rtdWiring? (P : Profile) : Nat → Option RtdWiring
  | 0     => none
  | k + 1 => P.rtdWirings[k]?

/-- `SE_ONLY(k)` (R8); false for OFF. -/
def Profile.seOnly (P : Profile) (k : Nat) : Bool := ((P.rtdWiring? k).map (·.seOnly)).getD false

/-- `RTD_ROUTING(k)` (R8), the routing wiring k implies; none for OFF. -/
def Profile.rtdRouting? (P : Profile) (k : Nat) : Option Nat := (P.rtdWiring? k).map (·.routing)

/-- The pair R25 excludes: a differential input with a single-ended-only RTD wiring. -/
def Profile.diffRtdClash (P : Profile) (cfg : AdcConfig) : Bool :=
  decide (cfg.diff ≠ 0) && decide (cfg.rtd ≠ 0) && P.seOnly cfg.rtd

/-- R25's second condition: an RTD wiring that is on has the routing it implies. -/
def Profile.routingOk (P : Profile) (cfg : AdcConfig) : Bool :=
  decide (cfg.rtd = 0) || decide (P.rtdRouting? cfg.rtd = some cfg.idacMux)

/-- `WF(cfg)`, the configuration invariant (R25). -/
def Profile.cfgWF (P : Profile) (cfg : AdcConfig) : Bool :=
  allAxes.all (fun X => P.inDomain X (cfg.get X)) && !P.diffRtdClash cfg && P.routingOk cfg

/-- The voltage of one reference source. An OPEN voltage is some positive rational (R8: VREF(r) > 0). -/
def RefVoltage.volts : RefVoltage → Rat
  | .known q      => q
  | .openSource r => ((Config.openVrefNum r : Rat) + 1) / ((Config.openVrefDen r : Rat) + 1)

/-- The check VREF(r) > 0 of R10. -/
def RefVoltage.positive : RefVoltage → Bool
  | .known q      => decide (0 < q.num)
  | .openSource _ => true

/-- `VREF(r)` (R8, R243). Beyond the last source, which no configuration of the domain selects, the voltage is
the open one. -/
def Profile.vref (P : Profile) (r : Nat) : Rat := ((P.vrefs[r]?).getD (.openSource r)).volts

/-- `gain(cfg)` (R242): BYPASS scales by 1. -/
def Profile.gain (P : Profile) (cfg : AdcConfig) : Nat :=
  match cfg.pga with
  | 0     => 1
  | i + 1 => (P.gains[i]?).getD 1

/-- The sum of the bytes plus 0x9B, modulo 256 (93 section 3.4). -/
def p0Checksum (bs : List Byte) : Nat := ((bs.map BitVec.toNat).sum + 0x9B) % 256

/-- One shift of P0's CRC-8 with polynomial 0x07 (93 section 3.4). -/
def crcShift (c : Byte) : Byte := if c.getLsbD 7 then (c <<< 1) ^^^ 0x07 else c <<< 1

/-- One byte of P0's CRC-8 (93 section 3.4). -/
def crcByte (c b : Byte) : Byte := Nat.repeat crcShift 8 (c ^^^ b)

/-- P0's CRC-8: initial value 0, no reflection, no final XOR (93 section 3.4). -/
def p0Crc (bs : List Byte) : Nat := (bs.foldl crcByte 0).toNat

/-- The check function before it is cut to the check field's width. -/
def CheckFn.run : CheckFn → CheckMode → List Byte → Nat
  | .p0,        .checksum, bs => p0Checksum bs
  | .p0,        .crc,      bs => p0Crc bs
  | .device id, m,         bs => Config.deviceCheck id m bs

/-- `CHECK_FN(mode, bytes)`, a natural below 2^CHECK_W (R9). -/
def Profile.checkValue (P : Profile) (m : CheckMode) (bs : List Byte) : Nat := P.checkFn.run m bs % 2 ^ P.checkW

/-- `REG(X)` of P0's field map (93 section 3.3). -/
def p0Reg : Axis → Option Nat
  | .power     => none
  | .errCheck  => some 0x02
  | .convMode  => some 0x03
  | .filter    => some 0x04
  | .dataRate1 => some 0x05
  | .pga       => some 0x05
  | .adcCh     => some 0x06
  | .diff      => some 0x06
  | .rtd       => none
  | .idacMux   => some 0x0D
  | .idacMag   => some 0x0E
  | .refSrc    => some 0x0F
  | .dataRate2 => some 0x15

/-- MODE2 of P0's field map: BYPASS in bit 7, GAIN in [6:4], DATA_RATE_1 in [3:0] (93 section 3.3). -/
def p0Mode2 (cfg : AdcConfig) : Nat :=
  match cfg.pga with
  | 0     => (1 <<< 7) ||| cfg.dataRate1
  | k + 1 => (k <<< 4) ||| cfg.dataRate1

/-- INPMUX of P0's field map: the differential pair, or the channel against AINCOM (93 section 3.3). -/
def p0Inpmux (cfg : AdcConfig) : Nat :=
  match cfg.diff with
  | 0     => (cfg.adcCh <<< 4) ||| 0xA
  | p + 1 => ((2 * p) <<< 4) ||| (2 * p + 1)

/-- `VAL(REG(X), cfg)` of P0's field map (93 section 3.3): the whole register, every field from `cfg`. -/
def p0Val (X : Axis) (cfg : AdcConfig) : Nat :=
  match X with
  | .power     => 0
  | .errCheck  => 0x04 ||| cfg.errCheck
  | .convMode  => (if cfg.convMode = 0 then 1 else 0) <<< 6
  | .filter    => cfg.filter <<< 5
  | .dataRate1 => p0Mode2 cfg
  | .pga       => p0Mode2 cfg
  | .adcCh     => p0Inpmux cfg
  | .diff      => p0Inpmux cfg
  | .rtd       => 0
  | .idacMux   => 0xB0 ||| cfg.idacMux
  | .idacMag   => cfg.idacMag
  | .refSrc    => (cfg.refSrc <<< 3) ||| cfg.refSrc
  | .dataRate2 => cfg.dataRate2 <<< 6

/-- P0's `ADC_FRAME`: write one register, `[0x40 | REG, 0x00, VAL]`, or nothing (93 section 3.3). -/
def p0AdcFrame (w : AxisWrite) (cfg : AdcConfig) : List Byte :=
  match p0Reg w.axis with
  | none   => []
  | some r => [BitVec.ofNat 8 (0x40 ||| r), 0x00, BitVec.ofNat 8 (p0Val w.axis cfg)]

/-- `ADC_FRAME(w, cfg)` (R8, R168). -/
def Profile.adcFrame (P : Profile) (w : AxisWrite) (cfg : AdcConfig) : List Byte :=
  match P.adcFrameFn with
  | .p0        => p0AdcFrame w cfg
  | .device id => Config.deviceAdcFrame id w cfg

/-- CODE is injective and fits the command field (R10). -/
def Profile.codesOk (P : Profile) : Bool :=
  allCommands.all fun c =>
    decide (P.code c < 2 ^ P.cmdW) && allCommands.all fun d => decide (c = d) || decide (P.code c ≠ P.code d)

/-- The conditions of R10, in R10's order. -/
def Profile.conditions (P : Profile) : List Bool :=
  [decide (1 ≤ P.cmdW), decide (12 ≤ 2 ^ P.cmdW),
   P.codesOk,
   decide (1 ≤ P.numDacCh), decide (P.numDacCh ≤ 8), decide (P.numDacCh ≤ 2 ^ P.addrW),
   decide (P.broadcastAddr < 2 ^ P.addrW),
   decide (P.resetData < 2 ^ P.dataW),
   decide (P.frameW % 8 = 0),
   !P.drTable1.isEmpty, !P.drTable2.isEmpty,
   P.gains.all fun g => decide (1 ≤ g),
   P.rtdWirings.all fun w => decide (w.routing < P.nIdacMux),
   !P.gains.isEmpty,
   P.resSet.all fun b => decide (0 < b) && decide (b % 8 = 0),
   P.cfgWF P.cfgReset,
   decide (0 < P.rRef.num), P.vrefs.all (·.positive)]

/-- A Profile is well-formed (R10). -/
def Profile.wf (P : Profile) : Bool := P.conditions.all id

end Sys2Proof
end

