-- ==== Sys2Proof/Machine/ReferenceProfile.lean ====
section
/-! DEFINITION. The reference profile P0 (93 section 3): the parameters of the opcode table and of the test
vectors. P0 is not normative (R6): no statement about the machine depends on it unless it names it. -/

namespace Sys2Proof

/-- P0's `CFG_RESET` (93 section 3.2). -/
def p0CfgReset : AdcConfig :=
  { convMode := 1, dataRate1 := 4, dataRate2 := 0, filter := 4, errCheck := 1, power := 0, idacMag := 0,
    idacMux := 11, refSrc := 0, diff := 1, rtd := 0, pga := 1, adcCh := 0 }

/-- P0's CODE: the ordinal in the document's list (R81). -/
def p0Codes : CodeTable :=
  { nop := 0x0, write := 0x1, update := 0x2, writeUpdate := 0x3, powerDown := 0x4, ldacMask := 0x5,
    swReset := 0x6, gain := 0x7, dcen := 0x8, readback := 0x9, updateAllCh := 0xA, updateAllDac := 0xB }

/-- P0's data-rate table of core 1, in samples per second (93 section 3.2). -/
def p0DrTable1 : List Rat :=
  [{ num := 5, den := 2 }, 5, 10, { num := 83, den := 5 }, 20, 50, 60, 100, 400, 1200, 2400, 4800, 7200,
   14400, 19200, 38400]

/-- P0's data-rate table of core 2 (93 section 3.2). -/
def p0DrTable2 : List Rat := [10, 100, 400, 800]

/-- The reference profile (93 section 3). VREF(1) to VREF(4) are OPEN. -/
def P0 : Profile :=
  { cmdW := 4, addrW := 4, dataW := 16
    codes := p0Codes
    numDacCh := 8, broadcastAddr := 0x0, resetData := 0x1234
    drTable1 := p0DrTable1, drTable2 := p0DrTable2
    nFilter := 5, nPower := 2, nIdacMag := 11, nIdacMux := 12
    vrefs := [.known { num := 5, den := 2 }, .openSource 1, .openSource 2, .openSource 3, .openSource 4]
    nDiff := 4
    rtdWirings := [{ seOnly := true, routing := 8 }, { seOnly := false, routing := 9 }]
    gains := [1, 2, 4, 8, 16, 32]
    nAdcCh := 8
    cfgReset := p0CfgReset
    adcFrameFn := .p0
    startFrame := [0x08], stopFrame := [0x0A]
    resSet := [24, 32]
    checkW := 8, checkFn := .p0
    rRef := 2000
    tSettle := none }

end Sys2Proof
end

