-- ==== Sys2Proof/Syntax.lean ====
section
/-! DEFINITION. The instructions: one constructor per row of spec/opcode_table.json, in the table's order.
The first twelve are the rows of the DAC frame: "one call of ENCODE (rule R110) with its c fixed"
(40_dac_command_encoder.md section 3). The other nineteen are the requests and events of R85. -/

namespace Sys2Proof

/-- An operation of the core with its operands. `a` is an address, `d` a data operand, `v` a value code. The
closed operand types are R15's: a spelling that names no member of one has no term here. -/
inductive Instr where
  | comNop (a d : Nat)
  | comWrite (a d : Nat)
  | comUpdate (a d : Nat)
  | comWriteUpdate (a d : Nat)
  | comPowerDown (a d : Nat)
  | comLdacMask (a d : Nat)
  | comSwReset (a d : Nat)
  | comGain (a d : Nat)
  | comDcen (a d : Nat)
  | comReadback (a d : Nat)
  | comUpdateAllCh (a d : Nat)
  | comUpdateAllDac (a d : Nat)
  | encode (c : CommandCode) (a d : Nat)
  | render
  | start (m : ConvMode)
  | stop
  | read
  | setConvMode (v : Nat)
  | setDataRate (core tag : ConverterCore) (index : Nat)
  | setFilter (v : Nat)
  | setErrCheck (v : Nat)
  | setPower (v : Nat)
  | setIdacMag (v : Nat)
  | setIdacMux (v : Nat)
  | setRefSrc (v : Nat)
  | setDiff (v : Nat)
  | setRtd (v : Nat)
  | setPga (v : Nat)
  | setAdcCh (v : Nat)
  | sampleReady (bits : Nat) (chk : Option Nat) (code : Nat)
  | timeout
  deriving DecidableEq, Repr

/-- How an operation is spelled at a port: the record `(op, a0, a1, a2)` of naturals (R84), its 64-bit word
(R84), or, for a row of the DAC frame, the bytes of the frame that its ENCODE call gives (R80, R62; log 6). -/
inductive Spelling where
  | record (op a0 a1 a2 : Nat)
  | word (w : ReqWord)
  | frame (bytes : List Byte)
  deriving DecidableEq, Repr

end Sys2Proof
end

