-- ==== Sys2Proof/Machine/State.lean ====
section
/-! DEFINITION. The state of one core instance (10_state.md), the replies of the request port (R87, R281), the
inputs of the three agents (R290), the reasons a step can stop, and the state after reset (R34). The core has no
register file, no program counter and no memory (R20, R21, R35, R60). -/

namespace Sys2Proof.Machine

/-- ConversionState (R27). Code 3 has no member, since no rule writes it (93 U9). -/
inductive ConvState where
  | idle | converting | continuous
  deriving DecidableEq, Repr

/-- The raw sample a SAMPLE_READY delivers (R29). -/
structure RawSample where
  code : Nat
  bits : Nat
  chk  : Option Nat
  deriving DecidableEq, Repr

/-- The eight error kinds, in the document's order (R280). -/
inductive ErrorKind where
  | invalidAddress | invalidData | unsupportedSetting | incompatibleConfiguration | alreadyRunning
  | noConversionInProgress | integrityCheckFailed | conversionTimeout
  deriving DecidableEq, Repr

/-- The status of a reply (R281). -/
inductive Status where
  | ok
  | error (k : ErrorKind)
  deriving DecidableEq, Repr

/-- The unit of a PhysicalValue (R249). -/
inductive PhysUnit where
  | volts | ohms
  deriving DecidableEq, Repr

/-- The payload of a reply (R87, and the error payloads of R281). -/
inductive Payload where
  /-- SET_* on OK; RENDER, STOP and READ errors. -/
  | none
  /-- ENCODE on OK: the frame and its bytes. -/
  | frame (f : Nat) (bytes : List Byte)
  /-- ENCODE's error: the offending operand value. -/
  | operand (v : Nat)
  /-- RENDER: the AxisWrites and the concatenation of their ADC frames. -/
  | rendered (writes : List AxisWrite) (bytes : List Byte)
  /-- START and STOP on OK: the device's command bytes. -/
  | command (bytes : List Byte)
  /-- START's error: the current conversion state. -/
  | running (c : ConvState)
  /-- A SET's error: the axis and the value code. -/
  | setting (X : Axis) (v : Nat)
  /-- SET_DATA_RATE's error: the axis and the value (tag, index). -/
  | rateSetting (X : Axis) (tag : ConverterCore) (index : Nat)
  /-- READ on OK: a PhysicalValue, exact. -/
  | physical (u : PhysUnit) (value : Rat)
  deriving DecidableEq, Repr

/-- A reply `(status, payload)` (R87). -/
structure Reply where
  status  : Status
  payload : Payload
  deriving DecidableEq, Repr

/-- One input of the core, from the caller, the transport or the reset source (R290). -/
inductive Input where
  | op (sp : Spelling)
  | reset
  deriving DecidableEq, Repr

/-- The machine's state. The first nine fields are the spec's `S` (10_state.md) and the parameter record every
rule is stated over (R6); the last two are the model's own: the ports (logs 1 and 2). -/
structure State where
  /-- The parameter record (R6 to R9), which no step changes (log 2). -/
  profile : Profile
  /-- `S.CFG`, the mirror (R24). -/
  cfg     : AdcConfig
  /-- `S.DEV_CFG`, the device-effective configuration (R26). -/
  devCfg  : AdcConfig
  /-- `S.CONV` (R27). -/
  conv    : ConvState
  /-- `S.SV`, the sample-valid flag (R28). -/
  sv      : Bool
  /-- `S.RAW`, which holds no value while `S.SV = 0` (R29). -/
  raw     : Option RawSample
  /-- `S.ACQ`, which holds no value while `S.SV = 0` (R30). -/
  acq     : Option AdcConfig
  /-- `S.PEND`, the pending-read flag (R31). -/
  pend    : Bool
  /-- `S.REFUSED`, the bookkeeping of refusals (R32). -/
  refused : Bool
  /-- The inputs still to arrive, in the order the core receives them (R67, R290; log 1). -/
  inputs  : List Input
  /-- The replies given so far, oldest first (R68, R87; log 1). -/
  replies : List Reply
  deriving DecidableEq, Repr

/-- Why the machine stops. -/
inductive Fault where
  /-- Raised by read completion (R205) when `S.SV = 1` and a latch holds no value. Safe: R29 and R30 exclude it,
  and `Safety.Inv` rules it out of every run. A model that finds it has broken an invariant. -/
  | emptyLatch
  deriving DecidableEq, Repr

/-- Why a step gives no meaning. -/
inductive Refusal where
  /-- Raised by `exec` for an instruction without a meaning. Safe: nothing is claimed of it. -/
  | notModelled (mnemonic : String)
  /-- Raised by `step` under a Profile that R10 calls not well-formed: "A model must refuse to be instantiated
  with a Profile that is not". Safe: nothing is claimed of such a machine. -/
  | profileNotWellFormed
  deriving DecidableEq, Repr

/-- An instance at first instantiation (R34, R320): power-on is a reset, and `S.REFUSED` is 0. -/
def State.powerOn (P : Profile) : State :=
  { profile := P, cfg := P.cfgReset, devCfg := P.cfgReset, conv := .idle, sv := false, raw := none, acq := none,
    pend := false, refused := false, inputs := [], replies := [] }

/-- The machine right after reset, under the reference profile P0 (R34, 93 section 3; log 2). -/
def State.reset : State := State.powerOn P0

end Sys2Proof.Machine
end

