-- ==== Sys2Proof/Machine/Flags.lean ====
section
/-! DEFINITION. The flags and codes of the core: the reply status (R281), the 2-bit code of the conversion state
(R27), the sample-valid flag with its two latches (R28 to R30), the pending-read flag (R31) and the refusal flag
(R32). The core has no condition codes (R33). -/

namespace Sys2Proof.Machine

/-- The code of an error kind (R281). -/
def ErrorKind.number : ErrorKind → Nat
  | .invalidAddress            => 1
  | .invalidData               => 2
  | .unsupportedSetting        => 3
  | .incompatibleConfiguration => 4
  | .alreadyRunning            => 5
  | .noConversionInProgress    => 6
  | .integrityCheckFailed      => 7
  | .conversionTimeout         => 8

/-- The 4-bit status code (R281). -/
def Status.code : Status → BitVec 4
  | .ok      => 0
  | .error k => BitVec.ofNat 4 k.number

/-- The 2-bit code of the conversion state (R27). -/
def ConvState.code : ConvState → BitVec 2
  | .idle       => 0
  | .converting => 1
  | .continuous => 2

/-- `S.SV <- 0`: a sample that is not held has no value in either latch (R28, R29, R30). -/
def State.clearSample (s : State) : State := { s with sv := false, raw := none, acq := none }

/-- A sample is latched with the configuration in effect at acquisition: `S.RAW`, `S.ACQ <- S.DEV_CFG`,
`S.SV <- 1` (R208). -/
def State.latchSample (s : State) (r : RawSample) : State :=
  { s with sv := true, raw := some r, acq := some s.devCfg }

/-- `S.PEND <- b` (R206, R208, R209). -/
def State.withPend (s : State) (b : Bool) : State := { s with pend := b }

/-- `S.CONV <- c` (R202, R204, R205). -/
def State.withConv (s : State) (c : ConvState) : State := { s with conv := c }

/-- `S.CFG <- c` (R150). -/
def State.withCfg (s : State) (c : AdcConfig) : State := { s with cfg := c }

/-- `S.DEV_CFG <- c` (R165). -/
def State.withDevCfg (s : State) (c : AdcConfig) : State := { s with devCfg := c }

/-- A reply leaves at the request port, after the earlier ones (R68, R87). -/
def State.pushReply (s : State) (r : Reply) : State := { s with replies := s.replies ++ [r] }

/-- `S.REFUSED <- 1`, and nothing else (R288). -/
def State.withRefused (s : State) : State := { s with refused := true }

/-- The inputs still to arrive. -/
def State.withInputs (s : State) (is : List Input) : State := { s with inputs := is }

end Sys2Proof.Machine
end

