-- ==== Sys2Proof/Machine/Operands.lean ====
section
/-! DEFINITION. The operands: the address classes and the operand checks of ENCODE (R111 to R113), the axis of a
data-rate core (R152), the check of a delivered sample (R89.6, R208), and the port of each operation (R85). -/

namespace Sys2Proof.Machine

/-- The address classes (R111). -/
inductive AddressClass where
  | ch | all | dev | reset
  deriving DecidableEq, Repr

/-- `class(c)` (R81, R111). -/
def addressClass : CommandCode → AddressClass
  | .nop          => .dev
  | .write        => .ch
  | .update       => .ch
  | .writeUpdate  => .ch
  | .powerDown    => .dev
  | .ldacMask     => .dev
  | .swReset      => .reset
  | .gain         => .dev
  | .dcen         => .dev
  | .readback     => .ch
  | .updateAllCh  => .all
  | .updateAllDac => .all

/-- `addr_ok(c, a)` (R112). COM_SW_RESET ignores its address (R115). -/
def addrOk (P : Profile) (c : CommandCode) (a : Nat) : Bool :=
  match addressClass c with
  | .ch    => decide (a < P.numDacCh)
  | .all   => decide (a = P.broadcastAddr)
  | .dev   => decide (a < 2 ^ P.addrW)
  | .reset => true

/-- Data validity (R113). -/
def dataOk (P : Profile) (d : Nat) : Bool := decide (d < 2 ^ P.dataW)

/-- The data-rate axis of a converter core (R152). -/
def rateAxis : ConverterCore → Axis
  | .core1 => .dataRate1
  | .core2 => .dataRate2

/-- A delivered sample fits the profile: bits in RES_SET, the code in that many bits, the check field absent or
in CHECK_W bits (R89.6, R208). -/
def sampleFits (P : Profile) (r : RawSample) : Bool :=
  decide (r.bits ∈ P.resSet) && decide (r.code < 2 ^ r.bits)
  && (r.chk.all fun c => decide (c < 2 ^ P.checkW))

/-- The port an operation arrives at (R85). -/
inductive Port where
  | request | event
  deriving DecidableEq, Repr

/-- The port of each operation (R85). -/
def portOf : Instr → Port
  | .comNop _ _          => .request
  | .comWrite _ _        => .request
  | .comUpdate _ _       => .request
  | .comWriteUpdate _ _  => .request
  | .comPowerDown _ _    => .request
  | .comLdacMask _ _     => .request
  | .comSwReset _ _      => .request
  | .comGain _ _         => .request
  | .comDcen _ _         => .request
  | .comReadback _ _     => .request
  | .comUpdateAllCh _ _  => .request
  | .comUpdateAllDac _ _ => .request
  | .encode _ _ _        => .request
  | .render              => .request
  | .start _             => .request
  | .stop                => .request
  | .read                => .request
  | .setConvMode _       => .request
  | .setDataRate _ _ _   => .request
  | .setFilter _         => .request
  | .setErrCheck _       => .request
  | .setPower _          => .request
  | .setIdacMag _        => .request
  | .setIdacMux _        => .request
  | .setRefSrc _         => .request
  | .setDiff _           => .request
  | .setRtd _            => .request
  | .setPga _            => .request
  | .setAdcCh _          => .request
  | .sampleReady _ _ _   => .event
  | .timeout             => .event

end Sys2Proof.Machine
end

