-- ==== Sys2Proof/WellFormed.lean ====
section
/-! DEFINITION. Which instructions their word or frame can spell: "The word can spell a request only when its
operands fit these fields" (R84), and a DAC frame holds an address and data that fit its fields (R80), the
broadcast address for the ALL rows and the fixed reset word for COM_SW_RESET (the masks of the opcode table). -/

namespace Sys2Proof

/-- The operands of a DAC frame fit its fields (R80). -/
def frameOperandsFit (P : Profile) (a d : Nat) : Bool := decide (a < 2 ^ P.addrW) && decide (d < 2 ^ P.dataW)

/-- The operands of a broadcast frame: the fixed address and data that fit (R111, R130, R131). -/
def broadcastOperandsFit (P : Profile) (a d : Nat) : Bool :=
  decide (a = P.broadcastAddr) && decide (d < 2 ^ P.dataW)

/-- A value code fits the word's a2 field (R84). -/
def a2Fits (v : Nat) : Bool := decide (v < 2 ^ 32)

/-- The word or frame of the instruction can spell it under profile `P` (R80, R84, R86). -/
def WellFormed (P : Profile) : Instr → Bool
  | .comNop a d          => frameOperandsFit P a d
  | .comWrite a d        => frameOperandsFit P a d
  | .comUpdate a d       => frameOperandsFit P a d
  | .comWriteUpdate a d  => frameOperandsFit P a d
  | .comPowerDown a d    => frameOperandsFit P a d
  | .comLdacMask a d     => frameOperandsFit P a d
  | .comSwReset a d      => decide (a = 0) && decide (d = P.resetData)
  | .comGain a d         => frameOperandsFit P a d
  | .comDcen a d         => frameOperandsFit P a d
  | .comReadback a d     => frameOperandsFit P a d
  | .comUpdateAllCh a d  => broadcastOperandsFit P a d
  | .comUpdateAllDac a d => broadcastOperandsFit P a d
  | .encode _ a d        => decide (a < 2 ^ 16) && a2Fits d
  | .render              => true
  | .start _             => true
  | .stop                => true
  | .read                => true
  | .setConvMode v       => a2Fits v
  | .setDataRate _ _ i   => a2Fits i
  | .setFilter v         => a2Fits v
  | .setErrCheck v       => a2Fits v
  | .setPower v          => a2Fits v
  | .setIdacMag v        => a2Fits v
  | .setIdacMux v        => a2Fits v
  | .setRefSrc v         => a2Fits v
  | .setDiff v           => a2Fits v
  | .setRtd v            => a2Fits v
  | .setPga v            => a2Fits v
  | .setAdcCh v          => a2Fits v
  | .sampleReady b c k   => decide (b < 2 ^ 8) && (c.all fun x => decide (x < 2 ^ 8)) && a2Fits k
  | .timeout             => true

end Sys2Proof
end

