-- ==== Sys2Proof/Decode.lean ====
section
/-! DEFINITION. The two encodings of 30_encoding.md, read and written: the DAC frame (R80 to R83, R114 to
R116) and the request word (R84 to R86, R89). Decoding is total and rejects by name; the encoder follows it. -/

namespace Sys2Proof

/-- The `width` bits of v from bit `lo` on: `v[lo+width-1 : lo]` of R11, and 0 for an empty field. -/
def field (v lo width : Nat) : Nat := (v >>> lo) % 2 ^ width

/-- `bytes_be(v, n)` (R11). -/
def bytesBe (v : Nat) : Nat → List Byte
  | 0     => []
  | n + 1 => BitVec.ofNat 8 (v >>> (8 * n)) :: bytesBe v n

/-- `nat_be(list)`, the inverse of `bytes_be` (R11). -/
def natBe (bs : List Byte) : Nat := bs.foldl (fun acc b => acc * 256 + b.toNat) 0

/-- `pack(k, a, d)` (R114). -/
def pack (P : Profile) (k a d : Nat) : Nat := (k <<< (P.addrW + P.dataW)) ||| (a <<< P.dataW) ||| d

/-- `RESET_WORD` (R115). -/
def resetWord (P : Profile) : Nat := pack P (P.code .swReset) 0x0 P.resetData

/-- The three fields of a DAC frame (R80). -/
structure FrameFields where
  cmd  : Nat
  addr : Nat
  data : Nat
  deriving DecidableEq, Repr

/-- `unpack(f)` (R116). -/
def unpack (P : Profile) (f : Nat) : FrameFields :=
  { cmd := field f (P.addrW + P.dataW) P.cmdW, addr := field f P.dataW P.addrW, data := field f 0 P.dataW }

/-- What a command field names: a member of CommandCode, or `RESERVED(k)` (R82, R116). -/
inductive CommandField where
  | member (c : CommandCode)
  | reserved (k : Nat)
  deriving DecidableEq, Repr

/-- `cmd_of(k)` (R116). -/
def cmdOf (P : Profile) (k : Nat) : CommandField :=
  match allCommands.find? (fun c => decide (P.code c = k)) with
  | some c => .member c
  | none   => .reserved k

/-- Why a spelling names no operation (R82, R89). -/
inductive Reject where
  /-- R89.1: an op value not in R85. -/
  | unknownOp (op : Nat)
  /-- R89.2: a field marked 0 in R85 is not 0. -/
  | unusedNotZero
  /-- R89.3: ENCODE with a0 ≥ 12. -/
  | noCommand (a0 : Nat)
  /-- R89.4: START with a0 ≥ 2. -/
  | noMode (a0 : Nat)
  /-- R89.5: SET_DATA_RATE with a core or a tag outside {1, 2}. -/
  | noCore (n : Nat)
  /-- R89.6: SAMPLE_READY with a1 not of the form of R86. -/
  | checkForm (a1 : Nat)
  /-- R65: a frame that is not exactly FRAME_W bits. -/
  | frameLength (bytes : Nat)
  /-- R82: a command field that is CODE(c) of no member c. -/
  | reservedCommand (k : Nat)
  /-- The COM_SW_RESET row fixes the whole frame (R115, R126). -/
  | notResetWord
  /-- The two ALL rows fix the address (R130, R131). -/
  | notBroadcast (a : Nat)
  deriving DecidableEq, Repr

/-- The outcome of decoding. -/
inductive Decoded where
  | instr (i : Instr)
  | rejected (r : Reject)
  deriving DecidableEq, Repr

/-- The member of CommandCode with this ordinal (R81). -/
def commandOfOrdinal (n : Nat) : Option CommandCode := allCommands[n]?

/-- The ordinal of a command code in the document's list (R81). -/
def CommandCode.ordinal : CommandCode → Nat
  | .nop => 0 | .write => 1 | .update => 2 | .writeUpdate => 3 | .powerDown => 4 | .ldacMask => 5
  | .swReset => 6 | .gain => 7 | .dcen => 8 | .readback => 9 | .updateAllCh => 10 | .updateAllDac => 11

/-- START's mode (R85). -/
def modeOf : Nat → Option ConvMode
  | 0 => some .singleShot
  | 1 => some .continuous
  | _ => none

/-- The number of a mode (R85). -/
def ConvMode.number : ConvMode → Nat
  | .singleShot => 0
  | .continuous => 1

/-- A converter core by number (R85). -/
def coreOf : Nat → Option ConverterCore
  | 1 => some .core1
  | 2 => some .core2
  | _ => none

/-- The number of a converter core (R85). -/
def ConverterCore.number : ConverterCore → Nat
  | .core1 => 1
  | .core2 => 2

/-- The optional check field in a1, with its presence bit at bit `n` (R86: n = 8); none where a1 is not of
that form: bits above n must be 0, and the value must be 0 where the check is absent. -/
def checkOf (n a1 : Nat) : Option (Option Nat) :=
  if 2 ^ (n + 1) ≤ a1 then none
  else if 2 ^ n ≤ a1 then some (some (a1 - 2 ^ n))
  else if a1 = 0 then some none
  else none

/-- The a1 field that spells an optional check (R86). -/
def checkField (n : Nat) : Option Nat → Nat
  | none   => 0
  | some c => 2 ^ n + c

/-- An operation that has no operand: a0 = a1 = a2 = 0 (R85). -/
def decodeBare (i : Instr) (a0 a1 a2 : Nat) : Decoded :=
  if a0 = 0 ∧ a1 = 0 ∧ a2 = 0 then .instr i else .rejected .unusedNotZero

/-- An operation whose only operand is a2: a0 = a1 = 0 (R85). -/
def decodeValue (mk : Nat → Instr) (a0 a1 a2 : Nat) : Decoded :=
  if a0 = 0 ∧ a1 = 0 then .instr (mk a2) else .rejected .unusedNotZero

/-- ENCODE's operands (R85, R89.3). -/
def decodeEncode (a0 a1 a2 : Nat) : Decoded :=
  match commandOfOrdinal a0 with
  | some c => .instr (.encode c a1 a2)
  | none   => .rejected (.noCommand a0)

/-- START's operand (R85, R89.2, R89.4). -/
def decodeStart (a0 a1 a2 : Nat) : Decoded :=
  match modeOf a0 with
  | some m => if a1 = 0 ∧ a2 = 0 then .instr (.start m) else .rejected .unusedNotZero
  | none   => .rejected (.noMode a0)

/-- SET_DATA_RATE's operands (R85, R89.5). -/
def decodeDataRate (a0 a1 a2 : Nat) : Decoded :=
  match coreOf a0, coreOf a1 with
  | some n, some t => .instr (.setDataRate n t a2)
  | none,   _      => .rejected (.noCore a0)
  | some _, none   => .rejected (.noCore a1)

/-- SAMPLE_READY's operands, the check's presence bit at bit `n` (R85, R86, R89.6). Whether the sample fits the
profile (RES_SET, its width, CHECK_W) is the operation's own check, since it needs the profile. -/
def decodeSampleReady (n a0 a1 a2 : Nat) : Decoded :=
  match checkOf n a1 with
  | some c => .instr (.sampleReady a0 c a2)
  | none   => .rejected (.checkForm a1)

/-- The op map (R85) over the record `(op, a0, a1, a2)`, with every refusal of R89.1 to R89.6 that the record
alone decides. `n` is the bit of SAMPLE_READY's check-present flag. -/
def decodeRecord (n op a0 a1 a2 : Nat) : Decoded :=
  match op with
  | 0x01 => decodeEncode a0 a1 a2
  | 0x02 => decodeBare .render a0 a1 a2
  | 0x03 => decodeStart a0 a1 a2
  | 0x04 => decodeBare .stop a0 a1 a2
  | 0x05 => decodeBare .read a0 a1 a2
  | 0x10 => decodeValue .setConvMode a0 a1 a2
  | 0x11 => decodeDataRate a0 a1 a2
  | 0x12 => decodeValue .setFilter a0 a1 a2
  | 0x13 => decodeValue .setErrCheck a0 a1 a2
  | 0x14 => decodeValue .setPower a0 a1 a2
  | 0x15 => decodeValue .setIdacMag a0 a1 a2
  | 0x16 => decodeValue .setIdacMux a0 a1 a2
  | 0x17 => decodeValue .setRefSrc a0 a1 a2
  | 0x18 => decodeValue .setDiff a0 a1 a2
  | 0x19 => decodeValue .setRtd a0 a1 a2
  | 0x1A => decodeValue .setPga a0 a1 a2
  | 0x1B => decodeValue .setAdcCh a0 a1 a2
  | 0x20 => decodeSampleReady n a0 a1 a2
  | 0x21 => decodeBare .timeout a0 a1 a2
  | _    => .rejected (.unknownOp op)

/-- The request word: op w[63:56], a0 w[55:48], a1 w[47:32], a2 w[31:0] (R84), check flag at a1[8] (R86). That
an event of more than 32 bits, or under a CHECK_W above 8, has the same a1 form is the model's choice (log 7). R84 drives
a Profile with a field wider than the word's by the record form alone, and no rule says what a word does there: that it
is decoded as under any other Profile is the model's choice (DESIGN CHOICE, log 16). -/
def decodeWord (w : ReqWord) : Decoded :=
  decodeRecord 8 (field w.toNat 56 8) (field w.toNat 48 8) (field w.toNat 32 16) (field w.toNat 0 32)

/-- The opcode table's row for a command code, with the operands of its frame. -/
def decodeCommand (P : Profile) (c : CommandCode) (a d : Nat) : Decoded :=
  match c with
  | .nop          => .instr (.comNop a d)
  | .write        => .instr (.comWrite a d)
  | .update       => .instr (.comUpdate a d)
  | .writeUpdate  => .instr (.comWriteUpdate a d)
  | .powerDown    => .instr (.comPowerDown a d)
  | .ldacMask     => .instr (.comLdacMask a d)
  | .swReset      => if a = 0 ∧ d = P.resetData then .instr (.comSwReset a d) else .rejected .notResetWord
  | .gain         => .instr (.comGain a d)
  | .dcen         => .instr (.comDcen a d)
  | .readback     => .instr (.comReadback a d)
  | .updateAllCh  => if a = P.broadcastAddr then .instr (.comUpdateAllCh a d) else .rejected (.notBroadcast a)
  | .updateAllDac => if a = P.broadcastAddr then .instr (.comUpdateAllDac a d) else .rejected (.notBroadcast a)

/-- A DAC frame as bytes (R62, R65, R80, R82, R116). -/
def decodeFrame (P : Profile) (bytes : List Byte) : Decoded :=
  if bytes.length ≠ P.frameBytes then .rejected (.frameLength bytes.length)
  else
    let u := unpack P (natBe bytes)
    match cmdOf P u.cmd with
    | .member c   => decodeCommand P c u.addr u.data
    | .reserved k => .rejected (.reservedCommand k)

/-- The bit of SAMPLE_READY's check-present flag in the record form. R86 decides it for CHECK_W up to 8 and at most
32 bits: bit 8. Beyond that the spec gives no a1 form, and the rest is the model's choice (DESIGN CHOICE, log 7): bit
8 also for a RES_SET member above 32, and bit CHECK_W where the check field is wider than 8 bits. -/
def recordFlagBit (P : Profile) : Nat := max 8 P.checkW

/-- Decoding a spelling under a profile: total, rejecting by name. -/
def decode (P : Profile) : Spelling → Decoded
  | .record op a0 a1 a2 => decodeRecord (recordFlagBit P) op a0 a1 a2
  | .word w             => decodeWord w
  | .frame bytes        => decodeFrame P bytes

/-! The encoder. -/

/-- The word with these fields (R84). -/
def wordOf (op a0 a1 a2 : Nat) : ReqWord :=
  BitVec.ofNat 64 (op * 2 ^ 56 + a0 * 2 ^ 48 + a1 * 2 ^ 32 + a2)

/-- The record of a request or event; none for a row of the DAC frame, whose record is ENCODE's (R84, R85). -/
def recordOf (n : Nat) : Instr → Option (Nat × Nat × Nat × Nat)
  | .comNop _ _          => none
  | .comWrite _ _        => none
  | .comUpdate _ _       => none
  | .comWriteUpdate _ _  => none
  | .comPowerDown _ _    => none
  | .comLdacMask _ _     => none
  | .comSwReset _ _      => none
  | .comGain _ _         => none
  | .comDcen _ _         => none
  | .comReadback _ _     => none
  | .comUpdateAllCh _ _  => none
  | .comUpdateAllDac _ _ => none
  | .encode c a d        => some (0x01, c.ordinal, a, d)
  | .render              => some (0x02, 0, 0, 0)
  | .start m             => some (0x03, m.number, 0, 0)
  | .stop                => some (0x04, 0, 0, 0)
  | .read                => some (0x05, 0, 0, 0)
  | .setConvMode v       => some (0x10, 0, 0, v)
  | .setDataRate n t i   => some (0x11, n.number, t.number, i)
  | .setFilter v         => some (0x12, 0, 0, v)
  | .setErrCheck v       => some (0x13, 0, 0, v)
  | .setPower v          => some (0x14, 0, 0, v)
  | .setIdacMag v        => some (0x15, 0, 0, v)
  | .setIdacMux v        => some (0x16, 0, 0, v)
  | .setRefSrc v         => some (0x17, 0, 0, v)
  | .setDiff v           => some (0x18, 0, 0, v)
  | .setRtd v            => some (0x19, 0, 0, v)
  | .setPga v            => some (0x1A, 0, 0, v)
  | .setAdcCh v          => some (0x1B, 0, 0, v)
  | .sampleReady b c k   => some (0x20, b, checkField n c, k)
  | .timeout             => some (0x21, 0, 0, 0)

/-- The word of a request or event (R84, R86). -/
def encodeWord (i : Instr) : Spelling :=
  match recordOf 8 i with
  | some (op, a0, a1, a2) => .word (wordOf op a0 a1 a2)
  | none                  => .word 0

/-- The frame of a command code with its operands (R62, R114). -/
def encodeFrame (P : Profile) (c : CommandCode) (a d : Nat) : Spelling :=
  .frame (bytesBe (pack P (P.code c) a d) P.frameBytes)

/-- The frame of a row of the DAC frame, the word of a request or event. -/
def encode (P : Profile) (i : Instr) : Spelling :=
  match i with
  | .comNop a d          => encodeFrame P .nop a d
  | .comWrite a d        => encodeFrame P .write a d
  | .comUpdate a d       => encodeFrame P .update a d
  | .comWriteUpdate a d  => encodeFrame P .writeUpdate a d
  | .comPowerDown a d    => encodeFrame P .powerDown a d
  | .comLdacMask a d     => encodeFrame P .ldacMask a d
  | .comSwReset a d      => encodeFrame P .swReset a d
  | .comGain a d         => encodeFrame P .gain a d
  | .comDcen a d         => encodeFrame P .dcen a d
  | .comReadback a d     => encodeFrame P .readback a d
  | .comUpdateAllCh a d  => encodeFrame P .updateAllCh a d
  | .comUpdateAllDac a d => encodeFrame P .updateAllDac a d
  | .encode _ _ _        => encodeWord i
  | .render              => encodeWord i
  | .start _             => encodeWord i
  | .stop                => encodeWord i
  | .read                => encodeWord i
  | .setConvMode _       => encodeWord i
  | .setDataRate _ _ _   => encodeWord i
  | .setFilter _         => encodeWord i
  | .setErrCheck _       => encodeWord i
  | .setPower _          => encodeWord i
  | .setIdacMag _        => encodeWord i
  | .setIdacMux _        => encodeWord i
  | .setRefSrc _         => encodeWord i
  | .setDiff _           => encodeWord i
  | .setRtd _            => encodeWord i
  | .setPga _            => encodeWord i
  | .setAdcCh _          => encodeWord i
  | .sampleReady _ _ _   => encodeWord i
  | .timeout             => encodeWord i

/-- The spelling of a row of spec/opcode_table.json from its bits: 64-bit rows are request words, narrower rows
are DAC frames of the profile's length, most-significant byte first (R62). -/
def tableSpelling (P : Profile) (nbits w : Nat) : Spelling :=
  if nbits < 64 then .frame (bytesBe w P.frameBytes) else .word (BitVec.ofNat 64 w)

/-- What the decoder reads from a row's bits under P0, the table's profile. -/
def decodeTableWord (nbits w : Nat) : Option Instr :=
  match decode P0 (tableSpelling P0 nbits w) with
  | .instr i    => some i
  | .rejected _ => none

end Sys2Proof
end

