-- ==== Sys2Proof/Machine/Pipeline.lean ====
section
/-! DEFINITION. The decode and calibration pipeline (43_decode_pipeline.md): a pure function of the latched sample
and the acquisition snapshot, in exact rational arithmetic (R13). -/

namespace Sys2Proof.Machine

/-- Polarity of a sample (R241). -/
inductive Polarity where
  | signed | unsigned
  deriving DecidableEq, Repr

/-- `polarity(cfg)` (R241). -/
def polarity (cfg : AdcConfig) : Polarity := if cfg.diff ≠ 0 ∨ cfg.rtd ≠ 0 then .signed else .unsigned

/-- `sext_N(v)` (R12). -/
def sext (n v : Nat) : Int := if 2 ^ (n - 1) ≤ v then (v : Int) - 2 ^ n else v

/-- The check mode of an ERR_CHECK code (R23): none for NONE. -/
def checkModeOf : Nat → Option CheckMode
  | 0 => none
  | 1 => some .checksum
  | _ => some .crc

/-- The bytes the check covers: the code, most-significant byte first (R244). -/
def checkBytes (r : RawSample) : List Byte := bytesBe r.code (r.bits / 8)

/-- `check_ok(raw, mode)` (R245): an absent check field is a mismatch. -/
def checkOk (P : Profile) (r : RawSample) (m : CheckMode) : Bool :=
  decide (r.chk = some (P.checkValue m (checkBytes r)))

/-- The integrity check of `decode`'s first line (R240, R245): ERR_CHECK = NONE ignores the check field. -/
def integrityOk (P : Profile) (r : RawSample) (cfg : AdcConfig) : Bool :=
  match checkModeOf cfg.errCheck with
  | none   => true
  | some m => checkOk P r m

/-- The sample as a fraction of full scale: over 2^(bits-1) when signed (R246), over 2^bits - 1 when unsigned
(R247). -/
def scaledCode (r : RawSample) (cfg : AdcConfig) : Rat :=
  match polarity cfg with
  | .signed   => (sext r.bits r.code : Rat) / ((2 ^ (r.bits - 1) : Nat) : Rat)
  | .unsigned => (r.code : Rat) / ((2 ^ r.bits - 1 : Nat) : Rat)

/-- `volts` of R240. -/
def sampleVolts (P : Profile) (r : RawSample) (cfg : AdcConfig) : Rat :=
  scaledCode r cfg * P.vref cfg.refSrc / (P.gain cfg : Rat)

/-- The result of `decode` (R240, R249). -/
inductive DecodeResult where
  | value (u : PhysUnit) (q : Rat)
  | integrityCheckFailed
  deriving DecidableEq, Repr

/-- `decode(raw, cfg)` (R240): the check first, then the scaling, then ohms for an RTD (R248). -/
def decodeSample (P : Profile) (r : RawSample) (cfg : AdcConfig) : DecodeResult :=
  if integrityOk P r cfg then
    if cfg.rtd ≠ 0 then .value .ohms (sampleVolts P r cfg / P.vref cfg.refSrc * P.rRef)
    else .value .volts (sampleVolts P r cfg)
  else .integrityCheckFailed

end Sys2Proof.Machine
end

