-- ==== Sys2Proof/Machine/Ops.lean ====
section
/-! DEFINITION. The named operations every meaning is written over: replying, raising an error, refusing, the gate
of the request port, ENCODE, the SET of one axis, RENDER, read completion, reset, and taking the next input.
The core has no memory (R60), so there is no operation over one. -/

namespace Sys2Proof.Machine

/-- What a step answers. -/
abbrev StepResult := Host.Outcome State Fault Refusal

/-- `reply(OK, payload)` (R14, R87). -/
def replyOk (p : Payload) (s : State) : StepResult := .next (s.pushReply ⟨.ok, p⟩)

/-- `raise E(info)`: TAKING AN EXCEPTION on this hardware (R14, R285). The operation ends and the reply
`(status, info)` goes to the caller that issued the request, or that is blocked on it; no state is saved, no mode
changes and no control is transferred. There is no return from it (R286): the core takes its next input. The
caller passes the state the operation leaves, which R284 makes its old one but for a completed READ. -/
def raise (e : ErrorKind) (info : Payload) (s : State) : StepResult := .next (s.pushReply ⟨.error e, info⟩)

/-- `refuse` (R288): no reply, and no change but `S.REFUSED <- 1`. -/
def refuse (s : State) : StepResult := .next s.withRefused

/-- The request port takes no request while a READ is held (R89.7, R292): it is refused. -/
def onRequestPort (body : State → StepResult) (s : State) : StepResult := if s.pend then refuse s else body s

/-- ENCODE(c, a, d) (R110). -/
def encodeOp (c : CommandCode) (a d : Nat) (s : State) : StepResult :=
  let done (f : Nat) : StepResult := replyOk (.frame f (bytesBe f s.profile.frameBytes)) s
  if c = .swReset then done (resetWord s.profile)
  else if !addrOk s.profile c a then raise .invalidAddress (.operand a) s
  else if !dataOk s.profile d then raise .invalidData (.operand d) s
  else done (pack s.profile (s.profile.code c) a d)

/-- The writes a SET implies: switching an RTD wiring on writes the routing it implies (R160). -/
def impliedWrites (P : Profile) (X : Axis) (v : Nat) (cfg : AdcConfig) : AdcConfig :=
  match X with
  | .rtd => match P.rtdRouting? v with
    | some m => cfg.set .idacMux m
    | none   => cfg
  | .convMode | .dataRate1 | .dataRate2 | .filter | .errCheck | .power | .idacMag | .idacMux | .refSrc | .diff
  | .pga | .adcCh => cfg

/-- SET_X(v) (R150, and R160 for RTD): domain first, then the interactions, then the commit. -/
def setAxis (X : Axis) (v : Nat) (s : State) : StepResult :=
  let cfg' := impliedWrites s.profile X v (s.cfg.set X v)
  if !s.profile.inDomain X v then raise .unsupportedSetting (.setting X v) s
  else if !s.profile.cfgWF cfg' then raise .incompatibleConfiguration (.setting X v) s
  else replyOk .none (s.withCfg cfg')

/-- SET_DATA_RATE(n, (t, i)) (R152): a rate of the other core's type fails whatever its number. -/
def setRate (n t : ConverterCore) (i : Nat) (s : State) : StepResult :=
  if t ≠ n then raise .unsupportedSetting (.rateSetting (rateAxis n) t i) s
  else if !s.profile.inDomain (rateAxis n) i then raise .unsupportedSetting (.rateSetting (rateAxis n) t i) s
  else replyOk .none (s.withCfg (s.cfg.set (rateAxis n) i))

/-- AXIS_ORDER (R167). -/
def axisOrder : List Axis :=
  [.power, .errCheck, .refSrc, .convMode, .filter, .dataRate1, .dataRate2, .pga, .adcCh, .diff, .rtd, .idacMag,
   .idacMux]

/-- The AxisWrites of a configuration, in AXIS_ORDER (R165, R166). -/
def renderWrites (cfg : AdcConfig) : List AxisWrite := axisOrder.map fun X => { axis := X, code := cfg.get X }

/-- The bytes of a configuration's AxisWrites (R165, R168). -/
def renderBytes (P : Profile) (cfg : AdcConfig) : List Byte :=
  (renderWrites cfg).flatMap fun w => P.adcFrame w cfg

/-- RENDER() (R165). -/
def renderOp (s : State) : StepResult :=
  replyOk (.rendered (renderWrites s.cfg) (renderBytes s.profile s.cfg)) (s.withDevCfg s.cfg)

/-- The state START's mode begins (R202). -/
def ConvState.ofMode : ConvMode → ConvState
  | .singleShot => .converting
  | .continuous => .continuous

/-- "if S.CONV = CONVERTING: S.CONV <- IDLE": a completed read ends a single-shot conversion (R205). -/
def ConvState.afterRead : ConvState → ConvState
  | .idle       => .idle
  | .converting => .idle
  | .continuous => .continuous

/-- `complete_read()` (R205): the sample is consumed whether it decodes or not. -/
def completeRead (s : State) : StepResult :=
  match s.raw, s.acq with
  | some r, some c =>
    let t := s.clearSample.withConv s.conv.afterRead
    match decodeSample s.profile r c with
    | .value u q            => replyOk (.physical u q) t
    | .integrityCheckFailed => raise .integrityCheckFailed .none t
  | some _, none => .fault .emptyLatch
  | none, _      => .fault .emptyLatch

/-- The reset input (R320, R321): every field of `S` but `S.REFUSED` takes its reset value; a held READ gets no
reply. The parameters and the ports are not fields of `S`. -/
def applyReset (s : State) : State :=
  { State.powerOn s.profile with refused := s.refused, inputs := s.inputs, replies := s.replies }

/-- What the next input asks for. -/
inductive Taken where
  | nothing
  | reset (rest : State)
  | instr (i : Instr) (rest : State)
  | refused (rest : State)
  deriving DecidableEq, Repr

/-- The core takes the first input and decodes it; the others wait their turn (R21, R67). -/
def takeInput (s : State) : Taken :=
  match s.inputs with
  | []             => .nothing
  | .reset :: rest => .reset (s.withInputs rest)
  | .op sp :: rest =>
    match decode s.profile sp with
    | .instr i    => .instr i (s.withInputs rest)
    | .rejected _ => .refused (s.withInputs rest)

end Sys2Proof.Machine
end

