-- ==== Sys2Proof/Machine/Conversion.lean ====
section
/-! DEFINITION. The Conversion State Machine (42_conversion_state_machine.md): START, STOP and READ of the caller,
SAMPLE_READY and TIMEOUT of the transport. -/

namespace Sys2Proof.Machine

/-- START(m) (R202). It neither reads nor writes CONV_MODE (R210). -/
def startOp (m : ConvMode) (s : State) : StepResult :=
  if s.conv ≠ .idle then raise .alreadyRunning (.running s.conv) s
  else replyOk (.command s.profile.startFrame) ((s.withConv (.ofMode m)).clearSample)

/-- STOP() (R204): the stop frame is returned in every state. -/
def stopOp (s : State) : StepResult := replyOk (.command s.profile.stopFrame) ((s.withConv .idle).clearSample)

/-- READ() (R206): the guard, the completion on a latched sample, or the hold. -/
def readOp (s : State) : StepResult :=
  if s.conv = .idle then raise .noConversionInProgress .none s
  else if s.sv then completeRead s
  else .next (s.withPend true)

/-- START (R202). -/
def execStart (m : ConvMode) (s : State) : StepResult := onRequestPort (startOp m) s

/-- STOP (R204). -/
def execStop (s : State) : StepResult := onRequestPort stopOp s

/-- READ (R206). -/
def execRead (s : State) : StepResult := onRequestPort readOp s

/-- SAMPLE_READY (R208): refused where the sample does not fit the profile (R89.6), dropped in IDLE, else latched;
a held READ is completed at once. -/
def execSampleReady (bits : Nat) (chk : Option Nat) (code : Nat) (s : State) : StepResult :=
  let r : RawSample := { code := code, bits := bits, chk := chk }
  if !sampleFits s.profile r then refuse s
  else if s.conv = .idle then .next s
  else if s.pend then completeRead ((s.latchSample r).withPend false)
  else .next (s.latchSample r)

/-- TIMEOUT (R209): completes a held READ with ConversionTimeout, and is ignored otherwise. -/
def execTimeout (s : State) : StepResult :=
  if s.pend then raise .conversionTimeout .none (s.withPend false) else .next s

end Sys2Proof.Machine
end

