-- ==== Sys2Proof/Machine/Encoder.lean ====
section
/-! DEFINITION. The Command Encoder (40_dac_command_encoder.md): ENCODE and the twelve command codes. Each command
rule is "one call of ENCODE (rule R110) with its c fixed". -/

namespace Sys2Proof.Machine

/-- COM_NOP (R120). -/
def execComNop (a d : Nat) (s : State) : StepResult := onRequestPort (encodeOp .nop a d) s

/-- COM_WRITE (R121). -/
def execComWrite (a d : Nat) (s : State) : StepResult := onRequestPort (encodeOp .write a d) s

/-- COM_UPDATE (R122). -/
def execComUpdate (a d : Nat) (s : State) : StepResult := onRequestPort (encodeOp .update a d) s

/-- COM_WRITE_UPDATE (R123). -/
def execComWriteUpdate (a d : Nat) (s : State) : StepResult := onRequestPort (encodeOp .writeUpdate a d) s

/-- COM_POWER_DOWN (R124). -/
def execComPowerDown (a d : Nat) (s : State) : StepResult := onRequestPort (encodeOp .powerDown a d) s

/-- COM_LDAC_MASK (R125): "The encoder still accepts the code". -/
def execComLdacMask (a d : Nat) (s : State) : StepResult := onRequestPort (encodeOp .ldacMask a d) s

/-- COM_SW_RESET (R126): always RESET_WORD, and the core's own state is not reset. -/
def execComSwReset (a d : Nat) (s : State) : StepResult := onRequestPort (encodeOp .swReset a d) s

/-- COM_GAIN (R127). -/
def execComGain (a d : Nat) (s : State) : StepResult := onRequestPort (encodeOp .gain a d) s

/-- COM_DCEN (R128): "the core emits the code only". -/
def execComDcen (a d : Nat) (s : State) : StepResult := onRequestPort (encodeOp .dcen a d) s

/-- COM_READBACK (R129). -/
def execComReadback (a d : Nat) (s : State) : StepResult := onRequestPort (encodeOp .readback a d) s

/-- COM_UPDATE_ALL_CH (R130). -/
def execComUpdateAllCh (a d : Nat) (s : State) : StepResult := onRequestPort (encodeOp .updateAllCh a d) s

/-- COM_UPDATE_ALL_DAC (R131). -/
def execComUpdateAllDac (a d : Nat) (s : State) : StepResult := onRequestPort (encodeOp .updateAllDac a d) s

/-- ENCODE (R110). -/
def execEncode (c : CommandCode) (a d : Nat) (s : State) : StepResult := onRequestPort (encodeOp c a d) s

end Sys2Proof.Machine
end

