-- ==== Sys2Proof/Machine/Registers.lean ====
section
/-! DEFINITION. The Configuration Register Model (41_config_register_model.md): one SET per axis, and RENDER. -/

namespace Sys2Proof.Machine

/-- RENDER (R165). -/
def execRender (s : State) : StepResult := onRequestPort renderOp s

/-- SET_CONV_MODE (R151). -/
def execSetConvMode (v : Nat) (s : State) : StepResult := onRequestPort (setAxis .convMode v) s

/-- SET_DATA_RATE (R152). -/
def execSetDataRate (n t : ConverterCore) (i : Nat) (s : State) : StepResult := onRequestPort (setRate n t i) s

/-- SET_FILTER (R153). -/
def execSetFilter (v : Nat) (s : State) : StepResult := onRequestPort (setAxis .filter v) s

/-- SET_ERR_CHECK (R154). -/
def execSetErrCheck (v : Nat) (s : State) : StepResult := onRequestPort (setAxis .errCheck v) s

/-- SET_POWER (R155). -/
def execSetPower (v : Nat) (s : State) : StepResult := onRequestPort (setAxis .power v) s

/-- SET_IDAC_MAG (R156). -/
def execSetIdacMag (v : Nat) (s : State) : StepResult := onRequestPort (setAxis .idacMag v) s

/-- SET_IDAC_MUX (R157). -/
def execSetIdacMux (v : Nat) (s : State) : StepResult := onRequestPort (setAxis .idacMux v) s

/-- SET_REF_SRC (R158). -/
def execSetRefSrc (v : Nat) (s : State) : StepResult := onRequestPort (setAxis .refSrc v) s

/-- SET_DIFF (R159). -/
def execSetDiff (v : Nat) (s : State) : StepResult := onRequestPort (setAxis .diff v) s

/-- SET_RTD (R160). -/
def execSetRtd (v : Nat) (s : State) : StepResult := onRequestPort (setAxis .rtd v) s

/-- SET_PGA (R161). -/
def execSetPga (v : Nat) (s : State) : StepResult := onRequestPort (setAxis .pga v) s

/-- SET_ADC_CH (R162). -/
def execSetAdcCh (v : Nat) (s : State) : StepResult := onRequestPort (setAxis .adcCh v) s

end Sys2Proof.Machine
end

