-- ==== Sys2Proof/Machine/Dispatch.lean ====
section
/-! DEFINITION. Dispatch: one arm per constructor of Instr, each one call of its meaning. -/

namespace Sys2Proof.Machine

def exec (i : Instr) (s : State) : Host.Outcome State Fault Refusal :=
  match i with
  | .comNop a d => Sys2Proof.Machine.execComNop a d s
  | .comWrite a d => Sys2Proof.Machine.execComWrite a d s
  | .comUpdate a d => Sys2Proof.Machine.execComUpdate a d s
  | .comWriteUpdate a d => Sys2Proof.Machine.execComWriteUpdate a d s
  | .comPowerDown a d => Sys2Proof.Machine.execComPowerDown a d s
  | .comLdacMask a d => Sys2Proof.Machine.execComLdacMask a d s
  | .comSwReset a d => Sys2Proof.Machine.execComSwReset a d s
  | .comGain a d => Sys2Proof.Machine.execComGain a d s
  | .comDcen a d => Sys2Proof.Machine.execComDcen a d s
  | .comReadback a d => Sys2Proof.Machine.execComReadback a d s
  | .comUpdateAllCh a d => Sys2Proof.Machine.execComUpdateAllCh a d s
  | .comUpdateAllDac a d => Sys2Proof.Machine.execComUpdateAllDac a d s
  | .encode c a d => Sys2Proof.Machine.execEncode c a d s
  | .render => Sys2Proof.Machine.execRender s
  | .start m => Sys2Proof.Machine.execStart m s
  | .stop => Sys2Proof.Machine.execStop s
  | .read => Sys2Proof.Machine.execRead s
  | .setConvMode v => Sys2Proof.Machine.execSetConvMode v s
  | .setDataRate core tag index => Sys2Proof.Machine.execSetDataRate core tag index s
  | .setFilter v => Sys2Proof.Machine.execSetFilter v s
  | .setErrCheck v => Sys2Proof.Machine.execSetErrCheck v s
  | .setPower v => Sys2Proof.Machine.execSetPower v s
  | .setIdacMag v => Sys2Proof.Machine.execSetIdacMag v s
  | .setIdacMux v => Sys2Proof.Machine.execSetIdacMux v s
  | .setRefSrc v => Sys2Proof.Machine.execSetRefSrc v s
  | .setDiff v => Sys2Proof.Machine.execSetDiff v s
  | .setRtd v => Sys2Proof.Machine.execSetRtd v s
  | .setPga v => Sys2Proof.Machine.execSetPga v s
  | .setAdcCh v => Sys2Proof.Machine.execSetAdcCh v s
  | .sampleReady bits chk code => Sys2Proof.Machine.execSampleReady bits chk code s
  | .timeout => Sys2Proof.Machine.execTimeout s

end Sys2Proof.Machine
end

