-- ==== Sys2Proof/Machine/Step.lean ====
section
/-! DEFINITION. One step of the machine: one input of the caller, the transport or the reset source is taken and
has its whole effect (R3, R21, R66, R67). -/

namespace Sys2Proof.Machine

/-- One step. A Profile that R10 rejects is refused; with no input to take, nothing happens (log 1); the reset
input resets (R320); a spelling that names no operation is refused (R89, R288); an operation runs. -/
def step (s : State) : Host.Outcome State Fault Refusal :=
  match s.profile.wf with
  | false => .refused .profileNotWellFormed
  | true  =>
    match takeInput s with
    | .nothing      => .next s
    | .reset rest   => .next (applyReset rest)
    | .instr i rest => exec i rest
    | .refused rest => refuse rest

/-- `s` with a row of the opcode table presented as its next input: the other inputs come after it. -/
def State.withFetchWord (s : State) (nbits w : Nat) : State :=
  s.withInputs (.op (tableSpelling s.profile nbits w) :: s.inputs)

end Sys2Proof.Machine
end

