-- ==== Sys2Proof/Safety.lean ====
section
/-! DEFINITION. What a good state and a safe run are, in the terms the statements use: the configuration invariant
(R25), the invariants of the conversion state machine (R201), what the latches hold (R29, R30), and the premise
of a claim about a run, that no refusal occurred (R32, R288). -/

namespace Sys2Proof.Safety

open Sys2Proof.Machine

/-- The sample-valid flag and the two latches agree: a sample that is held has a value in each, and one that is
not has none (R28, R29, R30). -/
def LatchesAgree (s : State) : Prop := s.raw.isSome = s.sv ∧ s.acq.isSome = s.sv

/-- The invariant of every reachable state. -/
structure Inv (s : State) : Prop where
  /-- The parameters are well-formed (R10). -/
  profile   : s.profile.wf = true
  /-- WF(S.CFG) (R25). -/
  cfg       : s.profile.cfgWF s.cfg = true
  /-- WF(S.DEV_CFG) (R25). -/
  devCfg    : s.profile.cfgWF s.devCfg = true
  /-- R28, R29, R30. -/
  latches   : LatchesAgree s
  /-- A latched sample is one SAMPLE_READY admits (R29, R208). -/
  raw       : ∀ r, s.raw = some r → sampleFits s.profile r = true
  /-- A snapshot is a copy of a device-effective configuration, so WF holds of it (R30, R25). -/
  acq       : ∀ c, s.acq = some c → s.profile.cfgWF c = true
  /-- "S.CONV = IDLE implies S.SV = 0 and S.PEND = 0" (R201). -/
  idle      : s.conv = .idle → s.sv = false ∧ s.pend = false
  /-- "S.PEND = 1 implies S.SV = 0" (R201). -/
  pending   : s.pend = true → s.sv = false

/-- The premise of a claim about a run: no refusal occurred (R32, R288). -/
def NoRefusal (s : State) : Prop := s.refused = false

/-- ENCODE's reply on OK for a command-field value and operands that fit: the frame as a sum of its shifted fields
(R80, R114) and its bytes, most-significant first (R62). -/
def frameReply (P : Profile) (k a d : Nat) : Reply :=
  let f := k * 2 ^ (P.addrW + P.dataW) + a * 2 ^ P.dataW + d
  ⟨.ok, .frame f (bytesBe f (P.frameW / 8))⟩

/-- READ's reply on a latched sample: the decoded value, or IntegrityCheckFailed (R205). -/
def readReply (P : Profile) (r : RawSample) (cfg : AdcConfig) : Reply :=
  match decodeSample P r cfg with
  | .value u q            => ⟨.ok, .physical u q⟩
  | .integrityCheckFailed => ⟨.error .integrityCheckFailed, .none⟩

/-- The next value of `S.CONV` when a READ completes: a single-shot conversion ends (R205). -/
def convAfterRead (c : ConvState) : ConvState := if c = .converting then .idle else c

/-- The operation the next input spells, if it spells one. -/
def nextInstr (s : State) : Option Instr :=
  match s.inputs with
  | .op sp :: _ =>
    match decode s.profile sp with
    | .instr i    => some i
    | .rejected _ => none
  | _ => none

/-- The next input is the reset input (R320). -/
def resetIsNext (s : State) : Bool :=
  match s.inputs with
  | .reset :: _ => true
  | _           => false

/-- The SET operations (R85, 41 section 2). -/
def isSet : Instr → Bool
  | .setConvMode _ | .setDataRate _ _ _ | .setFilter _ | .setErrCheck _ | .setPower _ | .setIdacMag _
  | .setIdacMux _ | .setRefSrc _ | .setDiff _ | .setRtd _ | .setPga _ | .setAdcCh _ => true
  | .comNop _ _ | .comWrite _ _ | .comUpdate _ _ | .comWriteUpdate _ _ | .comPowerDown _ _ | .comLdacMask _ _
  | .comSwReset _ _ | .comGain _ _ | .comDcen _ _ | .comReadback _ _ | .comUpdateAllCh _ _
  | .comUpdateAllDac _ _ | .encode _ _ _ | .render | .start _ | .stop | .read | .sampleReady _ _ _
  | .timeout => false

/-- ENCODE and its twelve command rows (40_dac_command_encoder.md). -/
def isEncoder : Instr → Bool
  | .comNop _ _ | .comWrite _ _ | .comUpdate _ _ | .comWriteUpdate _ _ | .comPowerDown _ _ | .comLdacMask _ _
  | .comSwReset _ _ | .comGain _ _ | .comDcen _ _ | .comReadback _ _ | .comUpdateAllCh _ _
  | .comUpdateAllDac _ _ | .encode _ _ _ => true
  | .render | .start _ | .stop | .read | .setConvMode _ | .setDataRate _ _ _ | .setFilter _ | .setErrCheck _
  | .setPower _ | .setIdacMag _ | .setIdacMux _ | .setRefSrc _ | .setDiff _ | .setRtd _ | .setPga _
  | .setAdcCh _ | .sampleReady _ _ _ | .timeout => false

/-- Which kinds of error each operation can raise (R282). A kind not listed is never raised. -/
def errorKindsOf : Instr → List ErrorKind
  | .encode c _ _ => if c = .swReset then [] else [.invalidAddress, .invalidData]
  | .comSwReset _ _ => []
  | .comNop _ _ | .comWrite _ _ | .comUpdate _ _ | .comWriteUpdate _ _ | .comPowerDown _ _ | .comLdacMask _ _
  | .comGain _ _ | .comDcen _ _ | .comReadback _ _ | .comUpdateAllCh _ _ | .comUpdateAllDac _ _ =>
    [.invalidAddress, .invalidData]
  | .render | .stop => []
  | .start _ => [.alreadyRunning]
  | .setConvMode _ | .setDataRate _ _ _ | .setFilter _ | .setErrCheck _ | .setPower _ | .setIdacMag _
  | .setRefSrc _ | .setPga _ | .setAdcCh _ => [.unsupportedSetting]
  | .setIdacMux _ | .setDiff _ | .setRtd _ => [.unsupportedSetting, .incompatibleConfiguration]
  | .read => [.noConversionInProgress, .integrityCheckFailed, .conversionTimeout]
  | .sampleReady _ _ _ => [.integrityCheckFailed]
  | .timeout => [.conversionTimeout]

end Sys2Proof.Safety
end

