-- ==== Sys2Proof/Certificates/Slice0/Obligations.lean ====
section
/-! DEFINITION. The statements about the machine, from the numbered rules of the spec. Every statement holds for
every well-formed Profile, not for P0 alone (R6), unless it names P0. A result is stated as the whole next state, so
that it is its own frame: a field that is not named is unchanged. -/

open Sys2Proof Sys2Proof.Machine Sys2Proof.Safety

/-! The two encodings. -/

/-- Tier 3, encoding (R80, R84 to R86). The decoder reads back what the encoder writes, for every operation and every
operand its frame or word can spell. R86 gives the a1 form of SAMPLE_READY for CHECK_W up to 8 and bits up to 32; that
the form is the same beyond is the model's choice (log 7), and so is that a word is read under a Profile whose fields are
wider than the word's, which R84 drives by the record form alone (log 16). -/
def Obligations.DecodeOfEncodeIsTheInstruction : Prop :=
  ∀ (P : Profile) (i : Instr), P.wf = true → WellFormed P i = true → decode P (encode P i) = .instr i

/-- The record form (R84) spells every operation whose check field fits CHECK_W, whatever the size of its operands.
Where CHECK_W or the number of bits is above what R86 covers (8 and 32), the place of the check's presence bit is the
model's choice (log 7). -/
def Obligations.DecodeOfRecordIsTheInstruction : Prop :=
  ∀ (P : Profile) (i : Instr) (op a0 a1 a2 : Nat),
    recordOf (recordFlagBit P) i = some (op, a0, a1, a2) →
    (∀ b c k, i = .sampleReady b (some c) k → c < 2 ^ P.checkW) →
    decode P (.record op a0 a1 a2) = .instr i

/-- No request word has two meanings and no accepted word holds a bit its operation does not spell (R84, R85, R86;
beyond CHECK_W 8 and 32 bits the a1 form is the model's choice, log 7; that a word is read under a Profile whose fields
are wider than the word's is its choice too, log 16). -/
def Obligations.AcceptedWordIsItsEncoding : Prop :=
  ∀ (P : Profile) (w : ReqWord) (i : Instr),
    decode P (.word w) = .instr i → encode P i = .word w ∧ WellFormed P i = true

/-- The same for the DAC frame (R80, R116, and the masks of the opcode table; log 6). -/
def Obligations.AcceptedFrameIsItsEncoding : Prop :=
  ∀ (P : Profile) (bytes : List Byte) (i : Instr), P.wf = true →
    decode P (.frame bytes) = .instr i → encode P i = .frame bytes ∧ WellFormed P i = true

/-- Tier 1. Words written out from R84 to R86 and frames from R80 and R81 stand for the rows they should. -/
def Obligations.WrittenOutWordsDecode : Prop :=
  decodeTableWord 24 0x17FFFF = some (.comWrite 7 0xFFFF)
  ∧ decodeTableWord 24 0x601234 = some (.comSwReset 0 0x1234)
  ∧ decodeTableWord 24 0xC00000 = none
  ∧ decodeTableWord 64 0x0103000200008000 = some (.encode .writeUpdate 2 0x8000)
  ∧ decodeTableWord 64 0x110100010000000F = some (.setDataRate .core1 .core1 15)
  ∧ decodeTableWord 64 0x0301000000000000 = some (.start .continuous)
  ∧ decodeTableWord 64 0x201801DB00400000 = some (.sampleReady 24 (some 0xDB) 0x400000)
  ∧ decodeTableWord 64 0x0400000100000000 = none

/-- R116. `unpack` is total: its fields rebuild the frame, and the command field names the one member with that code,
or is reported as reserved. -/
def Obligations.UnpackIsTotal : Prop :=
  ∀ (P : Profile) (f : Nat), P.wf = true → f < 2 ^ P.frameW →
    (unpack P f).cmd < 2 ^ P.cmdW ∧ (unpack P f).addr < 2 ^ P.addrW ∧ (unpack P f).data < 2 ^ P.dataW
    ∧ f = (unpack P f).cmd * 2 ^ (P.addrW + P.dataW) + (unpack P f).addr * 2 ^ P.dataW + (unpack P f).data
    ∧ (∀ k c, P.code c = k → cmdOf P k = .member c)
    ∧ (∀ k, (∀ c, P.code c ≠ k) → cmdOf P k = .reserved k)

/-! The step. -/

/-- Tier 1, derived (R21: one operation at a time, in the order issued). When the next input spells an operation, the
step is that operation on the state without that input. Two things here are the model's choice and no rule of the spec:
that the inputs are a list in State whose first element is the next one (log 1), and that `withFetchWord` presents a row
of the opcode table, which makes it the next operation (log 14). -/
def Obligations.StepRunsTheDecodedInstruction : Prop :=
  (∀ (s : State) (sp : Spelling) (rest : List Input) (i : Instr), s.profile.wf = true →
    s.inputs = .op sp :: rest → decode s.profile sp = .instr i → step s = exec i { s with inputs := rest })
  ∧ (∀ (s : State) (nbits w : Nat) (i : Instr), s.profile.wf = true →
    decode s.profile (tableSpelling s.profile nbits w) = .instr i → step (s.withFetchWord nbits w) = exec i s)

/-- R288, R32. A spelling that names no operation gets no reply and changes no field but the refusal flag. -/
def Obligations.RejectedSpellingOnlySetsRefused : Prop :=
  ∀ (s : State) (sp : Spelling) (rest : List Input) (r : Reject), s.profile.wf = true →
    s.inputs = .op sp :: rest → decode s.profile sp = .rejected r →
    step s = .next { s with inputs := rest, refused := true }

/-- Derived from R89, item by item, and R288, for the word and for the record with a CHECK_W up to 8: each of these
requests is refused, which sets only the flag, and no other request or event is refused. R86 gives SAMPLE_READY's a1 form
for CHECK_W up to 8 and bits up to 32; that the same form is asked of a1 beyond is the model's choice (log 7), and so is
that a word is read as under any other Profile where R84 leaves the record form alone (log 16). -/
def Obligations.RefusedRequests : Prop :=
  ∀ (s : State) (sp : Spelling) (op a0 a1 a2 : Nat) (rest : List Input), s.profile.wf = true →
    s.inputs = .op sp :: rest →
    ((∃ w : ReqWord, sp = .word w ∧ op = field w.toNat 56 8 ∧ a0 = field w.toNat 48 8 ∧ a1 = field w.toNat 32 16
        ∧ a2 = field w.toNat 0 32)
      ∨ (sp = .record op a0 a1 a2 ∧ s.profile.checkW ≤ 8)) →
    let refusal : Prop :=
      op ∉ [0x01, 0x02, 0x03, 0x04, 0x05, 0x10, 0x11, 0x12, 0x13, 0x14, 0x15, 0x16, 0x17, 0x18, 0x19, 0x1A, 0x1B,
        0x20, 0x21]
      ∨ (op ∈ [0x02, 0x04, 0x05, 0x21] ∧ (a0 ≠ 0 ∨ a1 ≠ 0 ∨ a2 ≠ 0))
      ∨ (op = 0x03 ∧ (a1 ≠ 0 ∨ a2 ≠ 0))
      ∨ (op ∈ [0x10, 0x12, 0x13, 0x14, 0x15, 0x16, 0x17, 0x18, 0x19, 0x1A, 0x1B] ∧ (a0 ≠ 0 ∨ a1 ≠ 0))
      ∨ (op = 0x01 ∧ 12 ≤ a0)
      ∨ (op = 0x03 ∧ 2 ≤ a0)
      ∨ (op = 0x11 ∧ (a0 ∉ [1, 2] ∨ a1 ∉ [1, 2]))
      ∨ (op = 0x20 ∧ (a0 ∉ s.profile.resSet ∨ 2 ^ a0 ≤ a2 ∨ 2 ^ 9 ≤ a1 ∨ (a1 < 2 ^ 8 ∧ a1 ≠ 0)))
      ∨ (s.pend = true ∧ op ∉ [0x20, 0x21])
    (refusal → step s = .next { s with inputs := rest, refused := true })
    ∧ (¬ refusal → 8 ≤ s.profile.checkW → ∀ t, step s = .next t → t.refused = s.refused)

/-- R32. No step clears the refusal flag, not even a reset. -/
def Obligations.RefusedIsNeverCleared : Prop :=
  ∀ (s t : State), step s = .next t → s.refused = true → t.refused = true

/-- Derived (R3, R6, R21, R66, R67; logs 1 and 2). A step keeps the parameters, takes one input at most, and only adds replies, one
at most. -/
def Obligations.StepTakesOneInput : Prop :=
  ∀ (s t : State), step s = .next t →
    t.profile = s.profile ∧ t.inputs = s.inputs.tail ∧ (t.replies = s.replies ∨ ∃ r, t.replies = s.replies ++ [r])

/-! The Command Encoder. -/

/-- R110, R113, R114, R115. ENCODE in full: the reset word, then the address check, then the data check, then the packed
frame, which fits FRAME_W. Nothing but the reply changes. -/
def Obligations.EncodeFollowsItsPseudocode : Prop :=
  ∀ (s : State) (c : CommandCode) (a d : Nat), s.profile.wf = true → s.pend = false →
    (c = .swReset →
      exec (.encode c a d) s = .next { s with
        replies := s.replies ++ [frameReply s.profile (s.profile.code .swReset) 0 s.profile.resetData] })
    ∧ (c ≠ .swReset → addrOk s.profile c a = false →
      exec (.encode c a d) s = .next { s with replies := s.replies ++ [⟨.error .invalidAddress, .operand a⟩] })
    ∧ (c ≠ .swReset → addrOk s.profile c a = true → 2 ^ s.profile.dataW ≤ d →
      exec (.encode c a d) s = .next { s with replies := s.replies ++ [⟨.error .invalidData, .operand d⟩] })
    ∧ (c ≠ .swReset → addrOk s.profile c a = true → d < 2 ^ s.profile.dataW →
      exec (.encode c a d) s = .next { s with
        replies := s.replies ++ [frameReply s.profile (s.profile.code c) a d] }
      ∧ s.profile.code c * 2 ^ (s.profile.addrW + s.profile.dataW) + a * 2 ^ s.profile.dataW + d
          < 2 ^ s.profile.frameW)

/-- R111, R112. ENCODE reports InvalidAddress exactly where the class of the command rejects the address. -/
def Obligations.InvalidAddressByClass : Prop :=
  ∀ (s : State) (c : CommandCode) (a d : Nat), s.pend = false →
    ((∃ t, exec (.encode c a d) s = .next t ∧ t.replies = s.replies ++ [⟨.error .invalidAddress, .operand a⟩])
      ↔ (c ∈ [CommandCode.write, .update, .writeUpdate, .readback] ∧ s.profile.numDacCh ≤ a)
        ∨ (c ∈ [CommandCode.updateAllCh, .updateAllDac] ∧ a ≠ s.profile.broadcastAddr)
        ∨ (c ∈ [CommandCode.nop, .powerDown, .ldacMask, .gain, .dcen] ∧ 2 ^ s.profile.addrW ≤ a))

/-- R121, R122, R123, R129. The channel-addressed commands: their three outcomes, and their P0 codes. -/
def Obligations.ChannelCommandsEncode : Prop :=
  ∀ (s : State) (a d : Nat), s.profile.wf = true → s.pend = false →
    ∀ p ∈ [(Instr.comWrite a d, CommandCode.write, 0x1), (.comUpdate a d, .update, 0x2),
           (.comWriteUpdate a d, .writeUpdate, 0x3), (.comReadback a d, .readback, 0x9)],
      P0.code p.2.1 = p.2.2
      ∧ (a < s.profile.numDacCh → d < 2 ^ s.profile.dataW →
        exec p.1 s = .next { s with replies := s.replies ++ [frameReply s.profile (s.profile.code p.2.1) a d] })
      ∧ (s.profile.numDacCh ≤ a →
        exec p.1 s = .next { s with replies := s.replies ++ [⟨.error .invalidAddress, .operand a⟩] })
      ∧ (a < s.profile.numDacCh → 2 ^ s.profile.dataW ≤ d →
        exec p.1 s = .next { s with replies := s.replies ++ [⟨.error .invalidData, .operand d⟩] })

/-- R130, R131. The broadcast commands take the one reserved address. -/
def Obligations.BroadcastCommandsEncode : Prop :=
  ∀ (s : State) (a d : Nat), s.profile.wf = true → s.pend = false →
    ∀ p ∈ [(Instr.comUpdateAllCh a d, CommandCode.updateAllCh, 0xA), (.comUpdateAllDac a d, .updateAllDac, 0xB)],
      P0.code p.2.1 = p.2.2
      ∧ (a = s.profile.broadcastAddr → d < 2 ^ s.profile.dataW →
        exec p.1 s = .next { s with replies := s.replies ++ [frameReply s.profile (s.profile.code p.2.1) a d] })
      ∧ (a ≠ s.profile.broadcastAddr →
        exec p.1 s = .next { s with replies := s.replies ++ [⟨.error .invalidAddress, .operand a⟩] })
      ∧ (a = s.profile.broadcastAddr → 2 ^ s.profile.dataW ≤ d →
        exec p.1 s = .next { s with replies := s.replies ++ [⟨.error .invalidData, .operand d⟩] })

/-- R120, R124, R125, R127, R128. The device-wide commands take every address the field holds. -/
def Obligations.DeviceCommandsEncode : Prop :=
  ∀ (s : State) (a d : Nat), s.profile.wf = true → s.pend = false →
    ∀ p ∈ [(Instr.comNop a d, CommandCode.nop, 0x0), (.comPowerDown a d, .powerDown, 0x4),
           (.comLdacMask a d, .ldacMask, 0x5), (.comGain a d, .gain, 0x7), (.comDcen a d, .dcen, 0x8)],
      P0.code p.2.1 = p.2.2
      ∧ (a < 2 ^ s.profile.addrW → d < 2 ^ s.profile.dataW →
        exec p.1 s = .next { s with replies := s.replies ++ [frameReply s.profile (s.profile.code p.2.1) a d] })
      ∧ (2 ^ s.profile.addrW ≤ a →
        exec p.1 s = .next { s with replies := s.replies ++ [⟨.error .invalidAddress, .operand a⟩] })
      ∧ (a < 2 ^ s.profile.addrW → 2 ^ s.profile.dataW ≤ d →
        exec p.1 s = .next { s with replies := s.replies ++ [⟨.error .invalidData, .operand d⟩] })

/-- R126. COM_SW_RESET takes any operands, wider than their fields or not, gives the one reset word, and resets nothing
of the core; the word of P0 is 0x601234. -/
def Obligations.SoftwareResetIgnoresItsOperands : Prop :=
  ∀ (s : State) (a d : Nat), s.profile.wf = true → s.pend = false →
    exec (.comSwReset a d) s = .next { s with
      replies := s.replies ++ [frameReply s.profile (s.profile.code .swReset) 0 s.profile.resetData] }
    ∧ (s.profile = P0 →
      exec (.comSwReset a d) s = .next { s with
        replies := s.replies ++ [⟨.ok, .frame 0x601234 [0x60, 0x12, 0x34]⟩] })

/-- R117. The round-trip law of ENCODE and unpack, COM_SW_RESET excepted, and the values one unit beyond each maximum. -/
def Obligations.EncodeThenUnpackRecovers : Prop :=
  ∀ (s : State) (c : CommandCode) (a d : Nat), s.profile.wf = true → s.pend = false →
    (c ≠ .swReset → addrOk s.profile c a = true → d < 2 ^ s.profile.dataW →
      ∃ f bs, exec (.encode c a d) s = .next { s with replies := s.replies ++ [⟨.ok, .frame f bs⟩] }
        ∧ unpack s.profile f = { cmd := s.profile.code c, addr := a, data := d }
        ∧ cmdOf s.profile (s.profile.code c) = .member c)
    ∧ (∃ f bs, exec (.encode .swReset a d) s = .next { s with replies := s.replies ++ [⟨.ok, .frame f bs⟩] }
        ∧ unpack s.profile f = { cmd := s.profile.code .swReset, addr := 0, data := s.profile.resetData })
    ∧ (∀ b, (addressClass c = .ch ∧ b = s.profile.numDacCh) ∨ (addressClass c = .dev ∧ b = 2 ^ s.profile.addrW)
          ∨ (addressClass c = .all ∧ (b = s.profile.broadcastAddr + 1 ∨ b + 1 = s.profile.broadcastAddr)) →
        exec (.encode c b d) s = .next { s with replies := s.replies ++ [⟨.error .invalidAddress, .operand b⟩] })
    ∧ (c ≠ .swReset → addrOk s.profile c a = true →
        exec (.encode c a (2 ^ s.profile.dataW)) s = .next { s with
          replies := s.replies ++ [⟨.error .invalidData, .operand (2 ^ s.profile.dataW)⟩] })

/-- R62. The bytes of an ENCODE reply are the frame's, most-significant byte first. -/
def Obligations.FrameBytesMostSignificantFirst : Prop :=
  ∀ (s t : State) (c : CommandCode) (a d f : Nat) (bs : List Byte), s.profile.wf = true →
    exec (.encode c a d) s = .next t → t.replies = s.replies ++ [⟨.ok, .frame f bs⟩] →
    8 * bs.length = s.profile.frameW ∧ natBe bs = f
    ∧ ∀ k < bs.length, bs[k]? = some (BitVec.ofNat 8 (f >>> (8 * (bs.length - 1 - k))))

/-! The Configuration Register Model. -/

/-- R151, R153, R154, R155, R156, R158, R161, R162. The eight SETs of an axis that takes part in no interaction: a value
code of the domain is committed, another is reported, and nothing else changes. -/
def Obligations.PlainSettersCommitOrReport : Prop :=
  ∀ (s : State) (v : Nat), s.pend = false → s.profile.cfgWF s.cfg = true →
    ∀ p ∈ [(Instr.setConvMode v, Axis.convMode, 2, { s.cfg with convMode := v }),
           (.setFilter v, .filter, s.profile.nFilter, { s.cfg with filter := v }),
           (.setErrCheck v, .errCheck, 3, { s.cfg with errCheck := v }),
           (.setPower v, .power, s.profile.nPower, { s.cfg with power := v }),
           (.setIdacMag v, .idacMag, s.profile.nIdacMag, { s.cfg with idacMag := v }),
           (.setRefSrc v, .refSrc, s.profile.vrefs.length, { s.cfg with refSrc := v }),
           (.setPga v, .pga, s.profile.gains.length + 1, { s.cfg with pga := v }),
           (.setAdcCh v, .adcCh, s.profile.nAdcCh, { s.cfg with adcCh := v })],
      (v < p.2.2.1 →
        exec p.1 s = .next { s with cfg := p.2.2.2, replies := s.replies ++ [⟨.ok, .none⟩] })
      ∧ (p.2.2.1 ≤ v →
        exec p.1 s = .next { s with replies := s.replies ++ [⟨.error .unsupportedSetting, .setting p.2.1 v⟩] })

/-- R152. SET_DATA_RATE writes the axis of its own core only; a rate of the other core, or an index outside the table,
is reported. -/
def Obligations.DataRateKeepsItsCore : Prop :=
  ∀ (s : State) (i : Nat), s.pend = false →
    (i < s.profile.drTable1.length →
      exec (.setDataRate .core1 .core1 i) s
        = .next { s with cfg := { s.cfg with dataRate1 := i }, replies := s.replies ++ [⟨.ok, .none⟩] })
    ∧ (i < s.profile.drTable2.length →
      exec (.setDataRate .core2 .core2 i) s
        = .next { s with cfg := { s.cfg with dataRate2 := i }, replies := s.replies ++ [⟨.ok, .none⟩] })
    ∧ (s.profile.drTable1.length ≤ i →
      exec (.setDataRate .core1 .core1 i) s = .next { s with
        replies := s.replies ++ [⟨.error .unsupportedSetting, .rateSetting .dataRate1 .core1 i⟩] })
    ∧ (s.profile.drTable2.length ≤ i →
      exec (.setDataRate .core2 .core2 i) s = .next { s with
        replies := s.replies ++ [⟨.error .unsupportedSetting, .rateSetting .dataRate2 .core2 i⟩] })
    ∧ exec (.setDataRate .core1 .core2 i) s = .next { s with
        replies := s.replies ++ [⟨.error .unsupportedSetting, .rateSetting .dataRate1 .core2 i⟩] }
    ∧ exec (.setDataRate .core2 .core1 i) s = .next { s with
        replies := s.replies ++ [⟨.error .unsupportedSetting, .rateSetting .dataRate2 .core1 i⟩] }

/-- R157. SET_IDAC_MUX: with an RTD wiring on, only the routing the wiring implies is compatible. -/
def Obligations.SetIdacMuxKeepsTheImpliedRouting : Prop :=
  ∀ (s : State) (v : Nat), s.pend = false → s.profile.cfgWF s.cfg = true →
    (v < s.profile.nIdacMux → (s.cfg.rtd = 0 ∨ s.profile.rtdRouting? s.cfg.rtd = some v) →
      exec (.setIdacMux v) s
        = .next { s with cfg := { s.cfg with idacMux := v }, replies := s.replies ++ [⟨.ok, .none⟩] })
    ∧ (s.profile.nIdacMux ≤ v →
      exec (.setIdacMux v) s = .next { s with
        replies := s.replies ++ [⟨.error .unsupportedSetting, .setting .idacMux v⟩] })
    ∧ (v < s.profile.nIdacMux → s.cfg.rtd ≠ 0 → s.profile.rtdRouting? s.cfg.rtd ≠ some v →
      exec (.setIdacMux v) s = .next { s with
        replies := s.replies ++ [⟨.error .incompatibleConfiguration, .setting .idacMux v⟩] })

/-- R159. SET_DIFF: a pair is incompatible with a single-ended-only RTD wiring that is on. -/
def Obligations.SetDiffExcludesSingleEndedRtd : Prop :=
  ∀ (s : State) (v : Nat), s.pend = false → s.profile.cfgWF s.cfg = true →
    (v ≤ s.profile.nDiff → (v = 0 ∨ s.cfg.rtd = 0 ∨ s.profile.seOnly s.cfg.rtd = false) →
      exec (.setDiff v) s = .next { s with cfg := { s.cfg with diff := v }, replies := s.replies ++ [⟨.ok, .none⟩] })
    ∧ (s.profile.nDiff < v →
      exec (.setDiff v) s = .next { s with
        replies := s.replies ++ [⟨.error .unsupportedSetting, .setting .diff v⟩] })
    ∧ (v ≤ s.profile.nDiff → v ≠ 0 → s.cfg.rtd ≠ 0 → s.profile.seOnly s.cfg.rtd = true →
      exec (.setDiff v) s = .next { s with
        replies := s.replies ++ [⟨.error .incompatibleConfiguration, .setting .diff v⟩] })

/-- R160. SET_RTD: a wiring that is switched on writes the routing it implies in the same step; OFF leaves the routing;
an error leaves both. -/
def Obligations.SetRtdWritesTheImpliedRouting : Prop :=
  ∀ (s : State), s.profile.wf = true → s.pend = false → s.profile.cfgWF s.cfg = true →
    exec (.setRtd 0) s = .next { s with cfg := { s.cfg with rtd := 0 }, replies := s.replies ++ [⟨.ok, .none⟩] }
    ∧ (∀ k w, s.profile.rtdWirings[k]? = some w → (w.seOnly = false ∨ s.cfg.diff = 0) →
      exec (.setRtd (k + 1)) s = .next { s with
        cfg := { s.cfg with rtd := k + 1, idacMux := w.routing }, replies := s.replies ++ [⟨.ok, .none⟩] })
    ∧ (∀ k w, s.profile.rtdWirings[k]? = some w → w.seOnly = true → s.cfg.diff ≠ 0 →
      exec (.setRtd (k + 1)) s = .next { s with
        replies := s.replies ++ [⟨.error .incompatibleConfiguration, .setting .rtd (k + 1)⟩] })
    ∧ (∀ v, s.profile.rtdWirings.length < v →
      exec (.setRtd v) s = .next { s with
        replies := s.replies ++ [⟨.error .unsupportedSetting, .setting .rtd v⟩] })

/-- R163. A SET either commits a configuration that satisfies WF or changes nothing but the reply. -/
def Obligations.SetIsAtomic : Prop :=
  ∀ (s : State) (i : Instr), isSet i = true → s.pend = false → s.profile.cfgWF s.cfg = true →
    (∃ cfg, s.profile.cfgWF cfg = true
      ∧ exec i s = .next { s with cfg := cfg, replies := s.replies ++ [⟨.ok, .none⟩] })
    ∨ (∃ k p, exec i s = .next { s with replies := s.replies ++ [⟨.error k, p⟩] })

/-- R164. A SET repeated gives the same reply and leaves the same state, and RENDER then gives the same reply. -/
def Obligations.SetIsIdempotent : Prop :=
  ∀ (s : State) (i : Instr), isSet i = true → s.pend = false →
    ∃ t r, exec i s = .next t ∧ t.replies = s.replies ++ [r]
      ∧ exec i t = .next { t with replies := t.replies ++ [r] }
      ∧ ∃ p, exec .render t = .next { t with devCfg := t.cfg, replies := t.replies ++ [⟨.ok, p⟩] }
        ∧ exec .render { t with replies := t.replies ++ [r] }
          = .next { t with devCfg := t.cfg, replies := t.replies ++ [r] ++ [⟨.ok, p⟩] }

/-- R165, R166, R167. RENDER emits every axis as a pair, in the fixed order, then their bytes, and makes the mirror the
device-effective configuration. -/
def Obligations.RenderEmitsEveryAxisInOrder : Prop :=
  ∀ (s : State), s.pend = false →
    let ws : List AxisWrite :=
      [⟨.power, s.cfg.power⟩, ⟨.errCheck, s.cfg.errCheck⟩, ⟨.refSrc, s.cfg.refSrc⟩, ⟨.convMode, s.cfg.convMode⟩,
       ⟨.filter, s.cfg.filter⟩, ⟨.dataRate1, s.cfg.dataRate1⟩, ⟨.dataRate2, s.cfg.dataRate2⟩, ⟨.pga, s.cfg.pga⟩,
       ⟨.adcCh, s.cfg.adcCh⟩, ⟨.diff, s.cfg.diff⟩, ⟨.rtd, s.cfg.rtd⟩, ⟨.idacMag, s.cfg.idacMag⟩,
       ⟨.idacMux, s.cfg.idacMux⟩]
    exec .render s = .next { s with
      devCfg := s.cfg
      replies := s.replies ++ [⟨.ok, .rendered ws ((ws.map fun w => s.profile.adcFrame w s.cfg).flatten)⟩] }

/-- R211. ENCODE, SET and RENDER are accepted in every conversion state and touch neither it nor the sample. -/
def Obligations.ConfigurationIgnoresConversion : Prop :=
  ∀ (s : State) (i : Instr), isEncoder i = true ∨ isSet i = true ∨ i = .render →
    ∃ t, exec i s = .next t ∧ t.conv = s.conv ∧ t.sv = s.sv ∧ t.raw = s.raw ∧ t.acq = s.acq ∧ t.pend = s.pend
      ∧ ∀ c, exec i { s with conv := c } = .next { t with conv := c }

/-- R24, R26. The mirror is written only by a SET or the reset input, the device-effective configuration only by RENDER
or the reset input. -/
def Obligations.WritersOfTheConfigurations : Prop :=
  ∀ (s t : State), step s = .next t →
    (t.cfg ≠ s.cfg → resetIsNext s = true ∨ ∃ i, nextInstr s = some i ∧ isSet i = true)
    ∧ (t.devCfg ≠ s.devCfg → resetIsNext s = true ∨ nextInstr s = some .render)

/-! The Conversion State Machine. -/

/-- R202, R210. START from IDLE begins the mode it names, whatever CONV_MODE says; otherwise AlreadyRunning. -/
def Obligations.StartBeginsOnlyFromIdle : Prop :=
  ∀ (s : State) (m : ConvMode), s.pend = false →
    (s.conv = .idle →
      exec (.start m) s = .next { s with
        conv := (match m with | .singleShot => .converting | .continuous => .continuous)
        sv := false, raw := none, acq := none
        replies := s.replies ++ [⟨.ok, .command s.profile.startFrame⟩] })
    ∧ (s.conv ≠ .idle →
      exec (.start m) s = .next { s with replies := s.replies ++ [⟨.error .alreadyRunning, .running s.conv⟩] })

/-- R204. STOP replies OK with the stop frame in every state, goes to IDLE and discards an unconsumed sample. -/
def Obligations.StopAlwaysReachesIdle : Prop :=
  ∀ (s : State), s.pend = false →
    exec .stop s = .next { s with
      conv := .idle, sv := false, raw := none, acq := none
      replies := s.replies ++ [⟨.ok, .command s.profile.stopFrame⟩] }

/-- R205, R206. READ: the guard in IDLE, the hold without a sample, and the completion that consumes the sample. -/
def Obligations.ReadGuardsHoldsOrCompletes : Prop :=
  ∀ (s : State), s.pend = false →
    (s.conv = .idle →
      exec .read s = .next { s with replies := s.replies ++ [⟨.error .noConversionInProgress, .none⟩] })
    ∧ (s.conv ≠ .idle → s.sv = false → exec .read s = .next { s with pend := true })
    ∧ (∀ r c, s.conv ≠ .idle → s.sv = true → s.raw = some r → s.acq = some c →
      exec .read s = .next { s with
        conv := convAfterRead s.conv, sv := false, raw := none, acq := none
        replies := s.replies ++ [readReply s.profile r c] })

/-- R208. SAMPLE_READY: refused where it does not fit, dropped in IDLE, latched with the device-effective configuration
while running, and completing a held READ. -/
def Obligations.SampleReadyLatchesOrCompletes : Prop :=
  ∀ (s : State) (b k : Nat) (c : Option Nat),
    (b ∈ s.profile.resSet → k < 2 ^ b → (∀ x, c = some x → x < 2 ^ s.profile.checkW) →
      (s.conv = .idle → exec (.sampleReady b c k) s = .next s)
      ∧ (s.conv ≠ .idle → s.pend = false →
        exec (.sampleReady b c k) s = .next { s with
          raw := some { code := k, bits := b, chk := c }, acq := some s.devCfg, sv := true })
      ∧ (s.conv ≠ .idle → s.pend = true →
        exec (.sampleReady b c k) s = .next { s with
          conv := convAfterRead s.conv, sv := false, raw := none, acq := none, pend := false
          replies := s.replies ++ [readReply s.profile { code := k, bits := b, chk := c } s.devCfg] }))
    ∧ (b ∉ s.profile.resSet ∨ 2 ^ b ≤ k ∨ (∃ x, c = some x ∧ 2 ^ s.profile.checkW ≤ x) →
      exec (.sampleReady b c k) s = .next { s with refused := true })

/-- R209. TIMEOUT completes a held READ with ConversionTimeout, leaves the conversion state, and is ignored otherwise. -/
def Obligations.TimeoutOnlyEndsAHeldRead : Prop :=
  ∀ (s : State),
    (s.pend = true →
      exec .timeout s = .next { s with
        pend := false, replies := s.replies ++ [⟨.error .conversionTimeout, .none⟩] })
    ∧ (s.pend = false → exec .timeout s = .next s)

/-- Derived from R200, R204, R320. CONTINUOUS is left only by STOP or the reset input. -/
def Obligations.ContinuousLeftOnlyByStopOrReset : Prop :=
  ∀ (s t : State), step s = .next t → s.conv = .continuous → t.conv ≠ .continuous →
    t.conv = .idle ∧ (resetIsNext s = true ∨ nextInstr s = some .stop)

/-- Derived from R202, R205, R206, R208 (the document's property E5). One single-shot conversion gives one value. -/
def Obligations.SingleShotIsReadOnce : Prop :=
  ∀ (s : State) (b k : Nat) (c : Option Nat), s.pend = false → s.conv = .idle →
    sampleFits s.profile { code := k, bits := b, chk := c } = true →
    ∃ t u v, exec (.start .singleShot) s = .next t ∧ exec (.sampleReady b c k) t = .next u ∧ exec .read u = .next v
      ∧ v.conv = .idle
      ∧ v.replies = s.replies ++ [⟨.ok, .command s.profile.startFrame⟩,
          readReply s.profile { code := k, bits := b, chk := c } s.devCfg]
      ∧ exec .read v = .next { v with replies := v.replies ++ [⟨.error .noConversionInProgress, .none⟩] }

/-- Derived from R26, R30, R208 (90 C6). Neither a SET nor a RENDER between a sample and its READ relabels the value. -/
def Obligations.ConfigurationNeverRelabelsASample : Prop :=
  ∀ (s : State) (b k : Nat) (c : Option Nat) (i j : Instr), s.pend = false → s.conv ≠ .idle →
    sampleFits s.profile { code := k, bits := b, chk := c } = true →
    (isSet i = true ∨ i = .render) → (isSet j = true ∨ j = .render) →
    ∃ t u v w, exec (.sampleReady b c k) s = .next t ∧ exec i t = .next u ∧ exec j u = .next v
      ∧ exec .read v = .next w
      ∧ w.replies = v.replies ++ [readReply s.profile { code := k, bits := b, chk := c } s.devCfg]

/-- R250. READ's reply depends on the latches and the parameters alone: two states that agree on them, however they
differ elsewhere, give the same reply. -/
def Obligations.ReadDependsOnTheLatchesAlone : Prop :=
  ∀ (s s' t : State), s.pend = false → s'.pend = false → s.profile = s'.profile → s.conv = s'.conv → s.sv = s'.sv →
    s.raw = s'.raw → s.acq = s'.acq → exec .read s = .next t →
    ∃ t' l, exec .read s' = .next t' ∧ t.replies = s.replies ++ l ∧ t'.replies = s'.replies ++ l

/-! The decode pipeline. -/

/-- R244, R245. The integrity check: with ERR_CHECK on, an absent or different check field fails and gives no value;
with ERR_CHECK = NONE the check field is ignored. -/
def Obligations.IntegrityCheckGuardsTheValue : Prop :=
  ∀ (P : Profile) (r : RawSample) (cfg : AdcConfig), P.cfgWF cfg = true →
    (decodeSample P r cfg = .integrityCheckFailed ↔
      (cfg.errCheck = 1 ∧ r.chk ≠ some (P.checkValue .checksum (bytesBe r.code (r.bits / 8))))
      ∨ (cfg.errCheck = 2 ∧ r.chk ≠ some (P.checkValue .crc (bytesBe r.code (r.bits / 8)))))

/-- R246. Signed scaling: the value, its range, and its two extremes. -/
def Obligations.SignedScaling : Prop :=
  ∀ (P : Profile) (r : RawSample) (cfg : AdcConfig), P.wf = true → P.cfgWF cfg = true → sampleFits P r = true →
    integrityOk P r cfg = true → cfg.diff ≠ 0 → cfg.rtd = 0 →
    let full : Rat := P.vref cfg.refSrc / P.gain cfg
    let x : Int := if r.code < 2 ^ (r.bits - 1) then r.code else r.code - 2 ^ r.bits
    ∃ q : Rat, decodeSample P r cfg = .value .volts q
      ∧ q = x / 2 ^ (r.bits - 1) * P.vref cfg.refSrc / P.gain cfg
      ∧ -full ≤ q ∧ q ≤ (1 - 1 / 2 ^ (r.bits - 1)) * full
      ∧ (r.code = 2 ^ (r.bits - 1) → q = -full)
      ∧ (r.code = 2 ^ (r.bits - 1) - 1 → q = full - P.vref cfg.refSrc / (P.gain cfg * 2 ^ (r.bits - 1)))

/-- R247. Unsigned scaling: the value, its range, and full scale at the largest code. -/
def Obligations.UnsignedScaling : Prop :=
  ∀ (P : Profile) (r : RawSample) (cfg : AdcConfig), P.wf = true → P.cfgWF cfg = true → sampleFits P r = true →
    integrityOk P r cfg = true → cfg.diff = 0 → cfg.rtd = 0 →
    let full : Rat := P.vref cfg.refSrc / P.gain cfg
    ∃ q : Rat, decodeSample P r cfg = .value .volts q
      ∧ q = r.code / (2 ^ r.bits - 1) * P.vref cfg.refSrc / P.gain cfg
      ∧ 0 ≤ q ∧ q ≤ full ∧ (r.code = 2 ^ r.bits - 1 → q = full)

/-- R248. An RTD sample is a ratio of full scale times the reference resistor, in ohms, signed and not clamped. -/
def Obligations.RtdGivesOhms : Prop :=
  ∀ (P : Profile) (r : RawSample) (cfg : AdcConfig), P.wf = true → P.cfgWF cfg = true → sampleFits P r = true →
    integrityOk P r cfg = true → cfg.rtd ≠ 0 →
    let x : Int := if r.code < 2 ^ (r.bits - 1) then r.code else r.code - 2 ^ r.bits
    decodeSample P r cfg = .value .ohms (x / 2 ^ (r.bits - 1) / P.gain cfg * P.rRef)

/-- R252. The document's worked example, for every profile with its gain and reference. -/
def Obligations.WorkedDecodeExample : Prop :=
  ∀ (P : Profile) (cfg : AdcConfig), cfg.errCheck = 0 → cfg.diff ≠ 0 → cfg.rtd = 0 → P.gain cfg = 1 →
    P.vref cfg.refSrc = 5 / 2 →
    decodeSample P { code := 0x7FFFFF, bits := 24, chk := none } cfg = .value .volts (41943035 / 16777216)
    ∧ (41943035 / 16777216 : Rat) = 8388607 / 8388608 * (5 / 2)
    ∧ (41943035 / 16777216 : Rat) = 5 / 2 - 5 / 2 / 2 ^ 23

/-! Errors, blocking and replies. -/

/-- R284. An operation that replies with an error has changed nothing, but for a READ that consumed a sample whose check
failed and the event that completes a held READ. -/
def Obligations.ErrorsArePrecise : Prop :=
  ∀ (s t : State) (i : Instr) (k : ErrorKind) (p : Payload),
    exec i s = .next t → t.replies = s.replies ++ [⟨.error k, p⟩] →
    t = { s with replies := s.replies ++ [⟨.error k, p⟩] }
    ∨ (i = .read ∧ k = .integrityCheckFailed ∧ t = { s with
        conv := convAfterRead s.conv, sv := false, raw := none, acq := none
        replies := s.replies ++ [⟨.error k, p⟩] })
    ∨ (portOf i = .event ∧ s.pend = true ∧ k = .conversionTimeout ∧ t = { s with
        pend := false, replies := s.replies ++ [⟨.error k, p⟩] })
    ∨ (portOf i = .event ∧ s.pend = true ∧ k = .integrityCheckFailed ∧ t = { s with
        conv := convAfterRead s.conv, sv := false, raw := none, acq := none, pend := false
        replies := s.replies ++ [⟨.error k, p⟩] })

/-- R282. An operation raises no kind but those listed for it. -/
def Obligations.ErrorKindsByOperation : Prop :=
  ∀ (s t : State) (i : Instr) (k : ErrorKind) (p : Payload), s.profile.cfgWF s.cfg = true →
    exec i s = .next t → t.replies = s.replies ++ [⟨.error k, p⟩] → k ∈ errorKindsOf i

/-- Derived from R281. The status codes are 0 to 8, one for each status, in the document's order. -/
def Obligations.StatusCodesAreDistinct : Prop :=
  (∀ st : Status, st.code.toNat ≤ 8)
  ∧ (∀ a b : Status, a.code = b.code → a = b)
  ∧ Status.ok.code = 0
  ∧ [ErrorKind.invalidAddress, .invalidData, .unsupportedSetting, .incompatibleConfiguration, .alreadyRunning,
      .noConversionInProgress, .integrityCheckFailed, .conversionTimeout].map (fun k => (Status.error k).code)
    = [1, 2, 3, 4, 5, 6, 7, 8]

/-- R292. While a READ is held the request port refuses every request; the event port and the reset input stay open. -/
def Obligations.HeldReadBlocksTheRequestPort : Prop :=
  ∀ (s : State), s.pend = true →
    (∀ i, portOf i = .request → exec i s = .next { s with refused := true })
    ∧ (∃ t, exec .timeout s = .next t ∧ t.pend = false ∧ t.refused = s.refused)
    ∧ (∀ b c k, s.conv ≠ .idle → sampleFits s.profile { code := k, bits := b, chk := c } = true →
        ∃ t, exec (.sampleReady b c k) s = .next t ∧ t.pend = false ∧ t.refused = s.refused)
    ∧ (∀ rest, s.profile.wf = true → s.inputs = .reset :: rest → ∃ t, step s = .next t ∧ t.pend = false)

/-- Derived from R87, R206. A request that is taken gets exactly one reply, but for a READ that holds. -/
def Obligations.OneReplyPerRequest : Prop :=
  ∀ (s t : State) (i : Instr), portOf i = .request → s.pend = false → exec i s = .next t →
    (t.pend = false ∧ ∃ r, t.replies = s.replies ++ [r])
    ∨ (i = .read ∧ t = { s with pend := true })

/-- Derived from R205, R208, R209, R287, R292, R321. A held READ ends only by an event, which gives it one reply, or by
a reset, which gives it none. -/
def Obligations.HeldReadEndsByEventOrReset : Prop :=
  ∀ (s t : State), step s = .next t → s.pend = true → t.pend = false →
    (resetIsNext s = true ∧ t.replies = s.replies)
    ∨ (∃ i r, nextInstr s = some i ∧ portOf i = .event ∧ t.replies = s.replies ++ [r])

/-! Reset and the invariant. -/

/-- Derived from R320 and R321. The reset input: every field of S but the refusal flag takes its reset value, the flag is
unchanged, a held READ gets no reply, and no frame is emitted. That reset keeps the Profile, the inputs still to come and
the replies already given, which are no fields of S, is the model's reading (DEDUCED, log 12). -/
def Obligations.ResetInputRestoresTheResetState : Prop :=
  ∀ (s : State) (rest : List Input), s.profile.wf = true → s.inputs = .reset :: rest →
    step s = .next
      { profile := s.profile, cfg := s.profile.cfgReset, devCfg := s.profile.cfgReset, conv := .idle, sv := false
        raw := none, acq := none, pend := false, refused := s.refused, inputs := rest, replies := s.replies }

/-- Derived from R34, R25 and R201. An instance of a well-formed Profile starts at the reset values and in a good state.
That `State.reset` is the instance of P0 is the model's choice and no rule of the spec (DESIGN CHOICE, log 2). -/
def Obligations.ResetStateIsGood : Prop :=
  (∀ P : Profile, P.wf = true →
    Inv (State.powerOn P) ∧ (State.powerOn P).cfg = P.cfgReset ∧ (State.powerOn P).devCfg = P.cfgReset
    ∧ (State.powerOn P).conv = .idle ∧ (State.powerOn P).sv = false ∧ (State.powerOn P).raw = none
    ∧ (State.powerOn P).acq = none ∧ (State.powerOn P).pend = false ∧ (State.powerOn P).refused = false)
  ∧ State.reset = State.powerOn P0 ∧ Inv State.reset

/-- Tier 3, invariant (R25, R29, R30, R201). Every step from a good state gives a good state. -/
def Obligations.StepKeepsInv : Prop :=
  ∀ (s t : State), Inv s → step s = .next t → Inv t

/-- Tier 3, safety (R3, R89, R288). The machine never stops from a good state: every input has its effect or is refused by
the flag, and the model's fault is not reached. -/
def Obligations.GoodStatesAlwaysStep : Prop :=
  ∀ (s : State), Inv s → ∃ t, step s = .next t ∧ Inv t

/-- Tier 2, safety: the corollary of `ResetStateIsGood` and `GoodStatesAlwaysStep` over runs. From power-on under any
well-formed Profile, whatever the inputs and however many steps, the machine runs on and stays good (R25 and R201: "in
every reachable state"). -/
def Obligations.EveryRunStaysGood : Prop :=
  ∀ (P : Profile) (is : List Input) (n : Nat), P.wf = true →
    ∃ t, core.run n { State.powerOn P with inputs := is } = .next t ∧ Inv t

/-- R10, D2. A Profile that is not well-formed is refused, whatever the state. -/
def Obligations.IllFormedProfileIsRefused : Prop :=
  ∀ (s : State), (step s = .refused .profileNotWellFormed ↔ s.profile.wf = false)
    ∧ (s.profile.wf = true ↔
      1 ≤ s.profile.cmdW ∧ 12 ≤ 2 ^ s.profile.cmdW
      ∧ (∀ c d, s.profile.code c = s.profile.code d → c = d) ∧ (∀ c, s.profile.code c < 2 ^ s.profile.cmdW)
      ∧ 1 ≤ s.profile.numDacCh ∧ s.profile.numDacCh ≤ 8 ∧ s.profile.numDacCh ≤ 2 ^ s.profile.addrW
      ∧ s.profile.broadcastAddr < 2 ^ s.profile.addrW ∧ s.profile.resetData < 2 ^ s.profile.dataW
      ∧ (s.profile.cmdW + s.profile.addrW + s.profile.dataW) % 8 = 0
      ∧ s.profile.drTable1 ≠ [] ∧ s.profile.drTable2 ≠ []
      ∧ (∀ g ∈ s.profile.gains, 1 ≤ g)
      ∧ (∀ w ∈ s.profile.rtdWirings, w.routing < s.profile.nIdacMux)
      ∧ s.profile.gains ≠ [] ∧ (∀ b ∈ s.profile.resSet, 0 < b ∧ b % 8 = 0)
      ∧ s.profile.cfgWF s.profile.cfgReset = true
      ∧ 0 < s.profile.rRef ∧ (∀ v ∈ s.profile.vrefs, 0 < v.volts))

/-- R25. The configuration invariant, spelled out over the axes. -/
def Obligations.ConfigurationInvariantSpelledOut : Prop :=
  ∀ (P : Profile) (cfg : AdcConfig),
    P.cfgWF cfg = true ↔
      cfg.convMode < 2 ∧ cfg.dataRate1 < P.drTable1.length ∧ cfg.dataRate2 < P.drTable2.length
      ∧ cfg.filter < P.nFilter ∧ cfg.errCheck < 3 ∧ cfg.power < P.nPower ∧ cfg.idacMag < P.nIdacMag
      ∧ cfg.idacMux < P.nIdacMux ∧ cfg.refSrc < P.vrefs.length ∧ cfg.diff ≤ P.nDiff
      ∧ cfg.rtd ≤ P.rtdWirings.length ∧ cfg.pga ≤ P.gains.length ∧ cfg.adcCh < P.nAdcCh
      ∧ (∀ k w, cfg.rtd = k + 1 → P.rtdWirings[k]? = some w →
          ¬ (cfg.diff ≠ 0 ∧ w.seOnly = true) ∧ cfg.idacMux = w.routing)
end

