-- ==== Sys2Proof/Laws/Profile.lean ====
section
/-! SUPPORT. What a well-formed Profile gives (R10) and what the configuration invariant says (R25). -/

namespace Sys2Proof.Laws

theorem mem_allCommands (c : CommandCode) : c ∈ allCommands := by cases c <;> decide

theorem mem_allAxes (X : Axis) : X ∈ allAxes := by cases X <;> decide

/-- R10, condition by condition. -/
theorem profile_wf_iff (P : Profile) :
    P.wf = true ↔ 1 ≤ P.cmdW ∧ 12 ≤ 2 ^ P.cmdW ∧ P.codesOk = true ∧ 1 ≤ P.numDacCh ∧ P.numDacCh ≤ 8
      ∧ P.numDacCh ≤ 2 ^ P.addrW ∧ P.broadcastAddr < 2 ^ P.addrW ∧ P.resetData < 2 ^ P.dataW
      ∧ P.frameW % 8 = 0 ∧ P.drTable1 ≠ [] ∧ P.drTable2 ≠ [] ∧ (∀ g ∈ P.gains, 1 ≤ g)
      ∧ (∀ w ∈ P.rtdWirings, w.routing < P.nIdacMux) ∧ P.gains ≠ [] ∧ (∀ b ∈ P.resSet, 0 < b ∧ b % 8 = 0)
      ∧ P.cfgWF P.cfgReset = true ∧ 0 < P.rRef ∧ (∀ v ∈ P.vrefs, v.positive = true) := by
  simp [Profile.wf, Profile.conditions, List.all_eq_true, Rat.num_pos]

theorem code_lt {P : Profile} (h : P.wf = true) (c : CommandCode) : P.code c < 2 ^ P.cmdW := by
  have h := ((profile_wf_iff P).1 h).2.2.1
  simp only [Profile.codesOk, List.all_eq_true, Bool.and_eq_true, decide_eq_true_eq] at h
  exact (h c (mem_allCommands c)).1

theorem code_injective {P : Profile} (h : P.wf = true) {c d : CommandCode} (e : P.code c = P.code d) : c = d := by
  have h := ((profile_wf_iff P).1 h).2.2.1
  simp only [Profile.codesOk, List.all_eq_true, Bool.and_eq_true, Bool.or_eq_true, decide_eq_true_eq] at h
  exact ((h c (mem_allCommands c)).2 d (mem_allCommands d)).resolve_right (fun n => n e)

/-- WF(cfg), condition by condition (R25). -/
theorem cfgWF_iff (P : Profile) (cfg : AdcConfig) :
    P.cfgWF cfg = true ↔ (∀ X, cfg.get X < P.domainSize X) ∧ ¬ (cfg.diff ≠ 0 ∧ cfg.rtd ≠ 0 ∧ P.seOnly cfg.rtd = true)
      ∧ (cfg.rtd ≠ 0 → P.rtdRouting? cfg.rtd = some cfg.idacMux) := by
  simp only [Profile.cfgWF, Profile.diffRtdClash, Profile.routingOk, Profile.inDomain, Bool.and_eq_true,
    List.all_eq_true, decide_eq_true_eq, Bool.not_eq_true', Bool.or_eq_true]
  constructor
  · rintro ⟨⟨h, hc⟩, hr⟩
    refine ⟨fun X => h X (mem_allAxes X), ?_, fun n => hr.resolve_left n⟩
    rintro ⟨a, b, c⟩
    simp [a, b, c] at hc
  · rintro ⟨h, hc, hr⟩
    refine ⟨⟨fun X _ => h X, ?_⟩, ?_⟩
    · by_contra n
      simp only [Bool.not_eq_false, Bool.and_eq_true, decide_eq_true_eq] at n
      exact hc ⟨n.1.1, n.1.2, n.2⟩
    · by_cases z : cfg.rtd = 0
      · exact .inl z
      · exact .inr (hr z)

theorem volts_pos {v : RefVoltage} (h : v.positive = true) : 0 < v.volts := by
  cases v with
  | known q => simpa [RefVoltage.positive, RefVoltage.volts, Rat.num_pos] using h
  | openSource r => simp only [RefVoltage.volts]; positivity

/-- VREF(r) > 0 (R8, R10). -/
theorem vref_pos {P : Profile} (h : P.wf = true) (r : Nat) : 0 < P.vref r := by
  have h := ((profile_wf_iff P).1 h).2.2.2.2.2.2.2.2.2.2.2.2.2.2.2.2.2
  unfold Profile.vref
  cases e : P.vrefs[r]? with
  | none => exact volts_pos (v := .openSource r) rfl
  | some v => exact volts_pos (h v (List.mem_of_getElem? e))

/-- gain ≥ 1 (R240, R242). -/
theorem gain_pos {P : Profile} (h : P.wf = true) (cfg : AdcConfig) : 1 ≤ P.gain cfg := by
  have h := ((profile_wf_iff P).1 h).2.2.2.2.2.2.2.2.2.2.2.1
  unfold Profile.gain
  cases cfg.pga with
  | zero => exact le_rfl
  | succ i =>
    show 1 ≤ (P.gains[i]?).getD 1
    cases e : P.gains[i]? with
    | none => exact le_rfl
    | some g => exact h g (List.mem_of_getElem? e)

theorem get_set (cfg : AdcConfig) (X Y : Axis) (v : Nat) :
    (cfg.set X v).get Y = if Y = X then v else cfg.get Y := by
  cases X <;> cases Y <;> rfl

theorem set_set (cfg : AdcConfig) (X : Axis) (v : Nat) : (cfg.set X v).set X v = cfg.set X v := by
  cases X <;> rfl

/-- Setting an axis that takes part in no interaction keeps WF (R25, R150). -/
theorem cfgWF_set_plain {P : Profile} {cfg : AdcConfig} {X : Axis} {v : Nat} (h : P.cfgWF cfg = true)
    (hv : v < P.domainSize X) (hX : X ≠ .idacMux ∧ X ≠ .diff ∧ X ≠ .rtd) : P.cfgWF (cfg.set X v) = true := by
  rw [cfgWF_iff] at h ⊢
  have hd : (cfg.set X v).diff = cfg.diff := by
    have := get_set cfg X .diff v
    rwa [if_neg (Ne.symm hX.2.1)] at this
  have hr : (cfg.set X v).rtd = cfg.rtd := by
    have := get_set cfg X .rtd v
    rwa [if_neg (Ne.symm hX.2.2)] at this
  have hm : (cfg.set X v).idacMux = cfg.idacMux := by
    have := get_set cfg X .idacMux v
    rwa [if_neg (Ne.symm hX.1)] at this
  rw [hd, hr, hm]
  refine ⟨fun Y => ?_, h.2⟩
  rw [get_set]
  split
  · rename_i e; rw [e]; exact hv
  · exact h.1 Y

/-- P0 is well-formed (93 section 3). -/
theorem p0_wf : P0.wf = true := by decide

end Sys2Proof.Laws
end

