-- ==== Sys2Proof/Laws/Encoding.lean ====
section
/-! SUPPORT. The arithmetic of the two encodings: byte lists (R11, R62), the fields of a frame (R80, R114, R116) and
the fields of a request word (R84). -/

namespace Sys2Proof.Laws

theorem field_lt (v lo w : Nat) : field v lo w < 2 ^ w := Nat.mod_lt _ (Nat.two_pow_pos w)

theorem field_eq (v lo w : Nat) : field v lo w = v / 2 ^ lo % 2 ^ w := by
  simp [field, Nat.shiftRight_eq_div_pow]

@[simp] theorem bytesBe_length (v n : Nat) : (bytesBe v n).length = n := by
  induction n with
  | zero => rfl
  | succ n ih => simp [bytesBe, ih]

theorem natBe_from (bs : List Byte) (acc : Nat) :
    bs.foldl (fun acc b => acc * 256 + b.toNat) acc = acc * 256 ^ bs.length + natBe bs := by
  induction bs generalizing acc with
  | nil => simp [natBe]
  | cons b bs ih =>
    simp only [List.foldl_cons, List.length_cons, natBe]
    rw [ih, ih (0 * 256 + b.toNat)]
    ring

theorem natBe_cons (b : Byte) (bs : List Byte) : natBe (b :: bs) = b.toNat * 256 ^ bs.length + natBe bs := by
  have := natBe_from bs (0 * 256 + b.toNat)
  simpa [natBe] using this

/-- `nat_be` reads back what `bytes_be` wrote, up to the width (R11). -/
theorem natBe_bytesBe_mod (v n : Nat) : natBe (bytesBe v n) = v % 256 ^ n := by
  induction n with
  | zero => simp [bytesBe, natBe, Nat.mod_one]
  | succ n ih =>
    rw [bytesBe, natBe_cons, ih, bytesBe_length, BitVec.toNat_ofNat, Nat.shiftRight_eq_div_pow,
      show (2 : Nat) ^ (8 * n) = 256 ^ n by rw [pow_mul]; norm_num, show (2 : Nat) ^ 8 = 256 by norm_num, pow_succ,
      Nat.mod_mul]
    ring

theorem natBe_bytesBe {v n : Nat} (h : v < 256 ^ n) : natBe (bytesBe v n) = v := by
  rw [natBe_bytesBe_mod, Nat.mod_eq_of_lt h]

theorem natBe_lt (bs : List Byte) : natBe bs < 256 ^ bs.length := by
  induction bs with
  | nil => simp [natBe]
  | cons b bs ih =>
    rw [natBe_cons, List.length_cons, pow_succ]
    have : b.toNat < 256 := b.isLt
    nlinarith [Nat.two_pow_pos 1]

/-- `bytes_be` writes back what `nat_be` read (R11). -/
theorem bytesBe_natBe (bs : List Byte) : bytesBe (natBe bs) bs.length = bs := by
  suffices h : ∀ hi, bytesBe (hi * 256 ^ bs.length + natBe bs) bs.length = bs by simpa using h 0
  induction bs with
  | nil => intro hi; rfl
  | cons b bs ih =>
    intro hi
    have e : hi * 256 ^ (b :: bs).length + natBe (b :: bs) = (hi * 256 + b.toNat) * 256 ^ bs.length + natBe bs := by
      rw [natBe_cons, List.length_cons, pow_succ]; ring
    rw [e, List.length_cons, bytesBe, ih]
    congr 1
    rw [Nat.shiftRight_eq_div_pow, show (2 : Nat) ^ (8 * bs.length) = 256 ^ bs.length by rw [pow_mul]; norm_num,
      Nat.mul_comm, Nat.mul_add_div (by positivity), Nat.div_eq_of_lt (natBe_lt bs), Nat.add_zero]
    apply BitVec.eq_of_toNat_eq
    rw [BitVec.toNat_ofNat]
    have : b.toNat < 256 := b.isLt
    omega

/-- The bytes of a frame, most-significant first (R11, R62). -/
theorem bytesBe_getElem? {v n i : Nat} (h : i < n) :
    (bytesBe v n)[i]? = some (BitVec.ofNat 8 (v >>> (8 * (n - 1 - i)))) := by
  induction n generalizing i with
  | zero => omega
  | succ n ih =>
    cases i with
    | zero => simp [bytesBe]
    | succ i =>
      rw [bytesBe, List.getElem?_cons_succ, ih (by omega)]
      congr 4
      omega

/-- "The fields do not overlap, so `|` equals `+` here" (R114). -/
theorem pack_eq_add {P : Profile} (k : Nat) {a d : Nat} (ha : a < 2 ^ P.addrW) (hd : d < 2 ^ P.dataW) :
    pack P k a d = k * 2 ^ (P.addrW + P.dataW) + a * 2 ^ P.dataW + d := by
  have h1 : a <<< P.dataW < 2 ^ (P.addrW + P.dataW) := by
    rw [Nat.shiftLeft_eq, pow_add]
    exact Nat.mul_lt_mul_of_pos_right ha (Nat.two_pow_pos _)
  rw [pack, ← Nat.shiftLeft_add_eq_or_of_lt h1]
  have h2 : k <<< (P.addrW + P.dataW) + a <<< P.dataW = (k * 2 ^ P.addrW + a) <<< P.dataW := by
    simp only [Nat.shiftLeft_eq, pow_add]; ring
  rw [h2, ← Nat.shiftLeft_add_eq_or_of_lt hd]
  simp only [Nat.shiftLeft_eq, pow_add]; ring

theorem pack_lt {P : Profile} {k a d : Nat} (hk : k < 2 ^ P.cmdW) (ha : a < 2 ^ P.addrW) (hd : d < 2 ^ P.dataW) :
    pack P k a d < 2 ^ P.frameW := by
  rw [pack_eq_add k ha hd, Profile.frameW, show P.cmdW + P.addrW + P.dataW = P.cmdW + (P.addrW + P.dataW) by ring,
    pow_add 2 P.cmdW]
  have h1 : (k + 1) * 2 ^ (P.addrW + P.dataW) ≤ 2 ^ P.cmdW * 2 ^ (P.addrW + P.dataW) :=
    Nat.mul_le_mul_right _ hk
  have h2 : (a + 1) * 2 ^ P.dataW ≤ 2 ^ P.addrW * 2 ^ P.dataW := Nat.mul_le_mul_right _ ha
  rw [← pow_add] at h2
  nlinarith

/-- `unpack` recovers what `pack` packed (R116, R117). -/
theorem unpack_pack {P : Profile} {k a d : Nat} (hk : k < 2 ^ P.cmdW) (ha : a < 2 ^ P.addrW)
    (hd : d < 2 ^ P.dataW) : unpack P (pack P k a d) = { cmd := k, addr := a, data := d } := by
  have e : pack P k a d = (k * 2 ^ P.addrW + a) * 2 ^ P.dataW + d := by rw [pack_eq_add k ha hd, pow_add]; ring
  have q : ((k * 2 ^ P.addrW + a) * 2 ^ P.dataW + d) / 2 ^ P.dataW = k * 2 ^ P.addrW + a := by
    rw [Nat.mul_comm, Nat.mul_add_div (Nat.two_pow_pos _), Nat.div_eq_of_lt hd, Nat.add_zero]
  have q2 : (k * 2 ^ P.addrW + a) / 2 ^ P.addrW = k := by
    rw [Nat.mul_comm, Nat.mul_add_div (Nat.two_pow_pos _), Nat.div_eq_of_lt ha, Nat.add_zero]
  simp only [unpack, field_eq, FrameFields.mk.injEq]
  refine ⟨?_, ?_, ?_⟩
  · rw [Nat.add_comm, pow_add, ← Nat.div_div_eq_div_mul, e, q, q2, Nat.mod_eq_of_lt hk]
  · rw [e, q, Nat.mul_comm, Nat.mul_add_mod, Nat.mod_eq_of_lt ha]
  · rw [e, pow_zero, Nat.div_one, Nat.mul_comm, Nat.mul_add_mod, Nat.mod_eq_of_lt hd]

/-- `pack` rebuilds a frame from its fields (R116). -/
theorem pack_unpack {P : Profile} {f : Nat} (h : f < 2 ^ P.frameW) :
    pack P (unpack P f).cmd (unpack P f).addr (unpack P f).data = f := by
  rw [pack_eq_add (unpack P f).cmd (show (unpack P f).addr < 2 ^ P.addrW from field_lt _ _ _)
    (show (unpack P f).data < 2 ^ P.dataW from field_lt _ _ _)]
  simp only [unpack, field_eq, pow_zero, Nat.div_one]
  have hc : f / 2 ^ (P.addrW + P.dataW) < 2 ^ P.cmdW := by
    rw [Nat.div_lt_iff_lt_mul (Nat.two_pow_pos _), ← pow_add, ← Nat.add_assoc]; exact h
  rw [Nat.mod_eq_of_lt hc, Nat.add_comm P.addrW, pow_add, ← Nat.div_div_eq_div_mul]
  have h1 := Nat.div_add_mod f (2 ^ P.dataW)
  have h2 := Nat.div_add_mod (f / 2 ^ P.dataW) (2 ^ P.addrW)
  generalize f / 2 ^ P.dataW / 2 ^ P.addrW = x at *
  generalize f / 2 ^ P.dataW % 2 ^ P.addrW = y at *
  generalize f % 2 ^ P.dataW = z at *
  generalize f / 2 ^ P.dataW = w at *
  subst h2
  rw [← h1]; ring

/-- `cmd_of(CODE(c)) = c` (R117). -/
theorem cmdOf_code {P : Profile} (h : P.wf = true) (c : CommandCode) : cmdOf P (P.code c) = .member c := by
  unfold cmdOf
  cases e : allCommands.find? (fun d => decide (P.code d = P.code c)) with
  | none =>
    have := List.find?_eq_none.1 e c (mem_allCommands c)
    simp at this
  | some d =>
    have := List.find?_some e
    simp only [decide_eq_true_eq] at this
    rw [code_injective h this]

/-- What `cmd_of` answers (R82, R116). -/
theorem cmdOf_member {P : Profile} {k : Nat} {c : CommandCode} (h : cmdOf P k = .member c) : P.code c = k := by
  unfold cmdOf at h
  cases e : allCommands.find? (fun d => decide (P.code d = k)) with
  | none => simp [e] at h
  | some d =>
    simp only [e, CommandField.member.injEq] at h
    have := List.find?_some e
    simp only [decide_eq_true_eq] at this
    rw [← h, this]

theorem cmdOf_reserved {P : Profile} {k : Nat} (h : ∀ c, P.code c ≠ k) : cmdOf P k = .reserved k := by
  unfold cmdOf
  rw [List.find?_eq_none.2 (fun c _ => by simp [h c])]

/-- The frame's length in bytes times 8 is its width (R62, R10). -/
theorem frameBytes_mul {P : Profile} (h : P.wf = true) : 8 * P.frameBytes = P.frameW := by
  have := ((profile_wf_iff P).1 h).2.2.2.2.2.2.2.2.1
  unfold Profile.frameBytes
  omega

theorem frame_fits {P : Profile} (h : P.wf = true) {f : Nat} (hf : f < 2 ^ P.frameW) : f < 256 ^ P.frameBytes := by
  rw [← frameBytes_mul h, pow_mul] at hf
  exact hf

/-- The check field reads back (R86). -/
theorem checkOf_checkField {n : Nat} {c : Option Nat} (h : ∀ x, c = some x → x < 2 ^ n) :
    checkOf n (checkField n c) = some c := by
  cases c with
  | none => simp [checkOf, checkField]
  | some x =>
    have hx := h x rfl
    have h1 : ¬ 2 ^ (n + 1) ≤ 2 ^ n + x := by rw [pow_succ]; omega
    simp only [checkOf, checkField, if_neg h1, Nat.le_add_right, if_true, Nat.add_sub_cancel_left]

/-- An accepted check field is its spelling (R86). -/
theorem checkField_checkOf {n a : Nat} {c : Option Nat} (h : checkOf n a = some c) :
    checkField n c = a ∧ ∀ x, c = some x → x < 2 ^ n := by
  unfold checkOf at h
  split at h
  · cases h
  · rename_i h1
    rw [pow_succ] at h1
    split at h
    · cases h
      refine ⟨by simp only [checkField]; omega, fun x hx => ?_⟩
      cases hx
      omega
    · split at h
      · cases h
        exact ⟨by simp [checkField, *], fun x hx => by cases hx⟩
      · cases h

/-- The fields of the word with these fields (R84). -/
theorem fields_wordOf {op a0 a1 a2 : Nat} (h : op < 2 ^ 8) (h0 : a0 < 2 ^ 8) (h1 : a1 < 2 ^ 16) (h2 : a2 < 2 ^ 32) :
    field (wordOf op a0 a1 a2).toNat 56 8 = op ∧ field (wordOf op a0 a1 a2).toNat 48 8 = a0
      ∧ field (wordOf op a0 a1 a2).toNat 32 16 = a1 ∧ field (wordOf op a0 a1 a2).toNat 0 32 = a2 := by
  simp only [wordOf, BitVec.toNat_ofNat, field_eq]
  norm_num at *
  omega

/-- A word is the word with its fields (R84). -/
theorem wordOf_fields (w : ReqWord) :
    wordOf (field w.toNat 56 8) (field w.toNat 48 8) (field w.toNat 32 16) (field w.toNat 0 32) = w := by
  apply BitVec.eq_of_toNat_eq
  have := w.isLt
  simp only [wordOf, BitVec.toNat_ofNat, field_eq]
  norm_num at *
  omega

end Sys2Proof.Laws
end

