-- ==== Sys2Proof/Laws/State.lean ====
section
/-! SUPPORT. One lemma per field and named update of the state, so that no later proof unfolds an update. -/

namespace Sys2Proof.Laws

open Sys2Proof.Machine

section

variable (s : State)

@[simp] theorem clearSample_profile : (s.clearSample).profile = s.profile := rfl
@[simp] theorem clearSample_cfg : (s.clearSample).cfg = s.cfg := rfl
@[simp] theorem clearSample_devCfg : (s.clearSample).devCfg = s.devCfg := rfl
@[simp] theorem clearSample_conv : (s.clearSample).conv = s.conv := rfl
@[simp] theorem clearSample_sv : (s.clearSample).sv = false := rfl
@[simp] theorem clearSample_raw : (s.clearSample).raw = none := rfl
@[simp] theorem clearSample_acq : (s.clearSample).acq = none := rfl
@[simp] theorem clearSample_pend : (s.clearSample).pend = s.pend := rfl
@[simp] theorem clearSample_refused : (s.clearSample).refused = s.refused := rfl
@[simp] theorem clearSample_inputs : (s.clearSample).inputs = s.inputs := rfl
@[simp] theorem clearSample_replies : (s.clearSample).replies = s.replies := rfl

end

section

variable (s : State) (r : RawSample)

@[simp] theorem latchSample_profile : (s.latchSample r).profile = s.profile := rfl
@[simp] theorem latchSample_cfg : (s.latchSample r).cfg = s.cfg := rfl
@[simp] theorem latchSample_devCfg : (s.latchSample r).devCfg = s.devCfg := rfl
@[simp] theorem latchSample_conv : (s.latchSample r).conv = s.conv := rfl
@[simp] theorem latchSample_sv : (s.latchSample r).sv = true := rfl
@[simp] theorem latchSample_raw : (s.latchSample r).raw = some r := rfl
@[simp] theorem latchSample_acq : (s.latchSample r).acq = some s.devCfg := rfl
@[simp] theorem latchSample_pend : (s.latchSample r).pend = s.pend := rfl
@[simp] theorem latchSample_refused : (s.latchSample r).refused = s.refused := rfl
@[simp] theorem latchSample_inputs : (s.latchSample r).inputs = s.inputs := rfl
@[simp] theorem latchSample_replies : (s.latchSample r).replies = s.replies := rfl

end

section

variable (s : State) (b : Bool)

@[simp] theorem withPend_profile : (s.withPend b).profile = s.profile := rfl
@[simp] theorem withPend_cfg : (s.withPend b).cfg = s.cfg := rfl
@[simp] theorem withPend_devCfg : (s.withPend b).devCfg = s.devCfg := rfl
@[simp] theorem withPend_conv : (s.withPend b).conv = s.conv := rfl
@[simp] theorem withPend_sv : (s.withPend b).sv = s.sv := rfl
@[simp] theorem withPend_raw : (s.withPend b).raw = s.raw := rfl
@[simp] theorem withPend_acq : (s.withPend b).acq = s.acq := rfl
@[simp] theorem withPend_pend : (s.withPend b).pend = b := rfl
@[simp] theorem withPend_refused : (s.withPend b).refused = s.refused := rfl
@[simp] theorem withPend_inputs : (s.withPend b).inputs = s.inputs := rfl
@[simp] theorem withPend_replies : (s.withPend b).replies = s.replies := rfl

end

section

variable (s : State) (c : ConvState)

@[simp] theorem withConv_profile : (s.withConv c).profile = s.profile := rfl
@[simp] theorem withConv_cfg : (s.withConv c).cfg = s.cfg := rfl
@[simp] theorem withConv_devCfg : (s.withConv c).devCfg = s.devCfg := rfl
@[simp] theorem withConv_conv : (s.withConv c).conv = c := rfl
@[simp] theorem withConv_sv : (s.withConv c).sv = s.sv := rfl
@[simp] theorem withConv_raw : (s.withConv c).raw = s.raw := rfl
@[simp] theorem withConv_acq : (s.withConv c).acq = s.acq := rfl
@[simp] theorem withConv_pend : (s.withConv c).pend = s.pend := rfl
@[simp] theorem withConv_refused : (s.withConv c).refused = s.refused := rfl
@[simp] theorem withConv_inputs : (s.withConv c).inputs = s.inputs := rfl
@[simp] theorem withConv_replies : (s.withConv c).replies = s.replies := rfl

end

section

variable (s : State) (c : AdcConfig)

@[simp] theorem withCfg_profile : (s.withCfg c).profile = s.profile := rfl
@[simp] theorem withCfg_cfg : (s.withCfg c).cfg = c := rfl
@[simp] theorem withCfg_devCfg : (s.withCfg c).devCfg = s.devCfg := rfl
@[simp] theorem withCfg_conv : (s.withCfg c).conv = s.conv := rfl
@[simp] theorem withCfg_sv : (s.withCfg c).sv = s.sv := rfl
@[simp] theorem withCfg_raw : (s.withCfg c).raw = s.raw := rfl
@[simp] theorem withCfg_acq : (s.withCfg c).acq = s.acq := rfl
@[simp] theorem withCfg_pend : (s.withCfg c).pend = s.pend := rfl
@[simp] theorem withCfg_refused : (s.withCfg c).refused = s.refused := rfl
@[simp] theorem withCfg_inputs : (s.withCfg c).inputs = s.inputs := rfl
@[simp] theorem withCfg_replies : (s.withCfg c).replies = s.replies := rfl

end

section

variable (s : State) (c : AdcConfig)

@[simp] theorem withDevCfg_profile : (s.withDevCfg c).profile = s.profile := rfl
@[simp] theorem withDevCfg_cfg : (s.withDevCfg c).cfg = s.cfg := rfl
@[simp] theorem withDevCfg_devCfg : (s.withDevCfg c).devCfg = c := rfl
@[simp] theorem withDevCfg_conv : (s.withDevCfg c).conv = s.conv := rfl
@[simp] theorem withDevCfg_sv : (s.withDevCfg c).sv = s.sv := rfl
@[simp] theorem withDevCfg_raw : (s.withDevCfg c).raw = s.raw := rfl
@[simp] theorem withDevCfg_acq : (s.withDevCfg c).acq = s.acq := rfl
@[simp] theorem withDevCfg_pend : (s.withDevCfg c).pend = s.pend := rfl
@[simp] theorem withDevCfg_refused : (s.withDevCfg c).refused = s.refused := rfl
@[simp] theorem withDevCfg_inputs : (s.withDevCfg c).inputs = s.inputs := rfl
@[simp] theorem withDevCfg_replies : (s.withDevCfg c).replies = s.replies := rfl

end

section

variable (s : State) (r : Reply)

@[simp] theorem pushReply_profile : (s.pushReply r).profile = s.profile := rfl
@[simp] theorem pushReply_cfg : (s.pushReply r).cfg = s.cfg := rfl
@[simp] theorem pushReply_devCfg : (s.pushReply r).devCfg = s.devCfg := rfl
@[simp] theorem pushReply_conv : (s.pushReply r).conv = s.conv := rfl
@[simp] theorem pushReply_sv : (s.pushReply r).sv = s.sv := rfl
@[simp] theorem pushReply_raw : (s.pushReply r).raw = s.raw := rfl
@[simp] theorem pushReply_acq : (s.pushReply r).acq = s.acq := rfl
@[simp] theorem pushReply_pend : (s.pushReply r).pend = s.pend := rfl
@[simp] theorem pushReply_refused : (s.pushReply r).refused = s.refused := rfl
@[simp] theorem pushReply_inputs : (s.pushReply r).inputs = s.inputs := rfl
@[simp] theorem pushReply_replies : (s.pushReply r).replies = s.replies ++ [r] := rfl

end

section

variable (s : State)

@[simp] theorem withRefused_profile : (s.withRefused).profile = s.profile := rfl
@[simp] theorem withRefused_cfg : (s.withRefused).cfg = s.cfg := rfl
@[simp] theorem withRefused_devCfg : (s.withRefused).devCfg = s.devCfg := rfl
@[simp] theorem withRefused_conv : (s.withRefused).conv = s.conv := rfl
@[simp] theorem withRefused_sv : (s.withRefused).sv = s.sv := rfl
@[simp] theorem withRefused_raw : (s.withRefused).raw = s.raw := rfl
@[simp] theorem withRefused_acq : (s.withRefused).acq = s.acq := rfl
@[simp] theorem withRefused_pend : (s.withRefused).pend = s.pend := rfl
@[simp] theorem withRefused_refused : (s.withRefused).refused = true := rfl
@[simp] theorem withRefused_inputs : (s.withRefused).inputs = s.inputs := rfl
@[simp] theorem withRefused_replies : (s.withRefused).replies = s.replies := rfl

end

section

variable (s : State) (is : List Input)

@[simp] theorem withInputs_profile : (s.withInputs is).profile = s.profile := rfl
@[simp] theorem withInputs_cfg : (s.withInputs is).cfg = s.cfg := rfl
@[simp] theorem withInputs_devCfg : (s.withInputs is).devCfg = s.devCfg := rfl
@[simp] theorem withInputs_conv : (s.withInputs is).conv = s.conv := rfl
@[simp] theorem withInputs_sv : (s.withInputs is).sv = s.sv := rfl
@[simp] theorem withInputs_raw : (s.withInputs is).raw = s.raw := rfl
@[simp] theorem withInputs_acq : (s.withInputs is).acq = s.acq := rfl
@[simp] theorem withInputs_pend : (s.withInputs is).pend = s.pend := rfl
@[simp] theorem withInputs_refused : (s.withInputs is).refused = s.refused := rfl
@[simp] theorem withInputs_inputs : (s.withInputs is).inputs = is := rfl
@[simp] theorem withInputs_replies : (s.withInputs is).replies = s.replies := rfl

end

section

variable (s : State)

@[simp] theorem applyReset_profile : (applyReset s).profile = s.profile := rfl
@[simp] theorem applyReset_cfg : (applyReset s).cfg = s.profile.cfgReset := rfl
@[simp] theorem applyReset_devCfg : (applyReset s).devCfg = s.profile.cfgReset := rfl
@[simp] theorem applyReset_conv : (applyReset s).conv = .idle := rfl
@[simp] theorem applyReset_sv : (applyReset s).sv = false := rfl
@[simp] theorem applyReset_raw : (applyReset s).raw = none := rfl
@[simp] theorem applyReset_acq : (applyReset s).acq = none := rfl
@[simp] theorem applyReset_pend : (applyReset s).pend = false := rfl
@[simp] theorem applyReset_refused : (applyReset s).refused = s.refused := rfl
@[simp] theorem applyReset_inputs : (applyReset s).inputs = s.inputs := rfl
@[simp] theorem applyReset_replies : (applyReset s).replies = s.replies := rfl

end

end Sys2Proof.Laws
end

