-- ==== Sys2Proof/Laws/Ops.lean ====
section
/-! SUPPORT. One inversion lemma per shared operation: everything it can answer. -/

namespace Sys2Proof.Laws

open Sys2Proof.Machine

/-- A state with one more reply and nothing else changed. -/
theorem pushReply_eq (s : State) (r : Reply) : s.pushReply r = { s with replies := s.replies ++ [r] } := rfl

/-- The gate of the request port (R292). -/
theorem onRequestPort_open {s : State} (h : s.pend = false) (body : State → StepResult) :
    onRequestPort body s = body s := by simp [onRequestPort, h]

theorem onRequestPort_blocked {s : State} (h : s.pend = true) (body : State → StepResult) :
    onRequestPort body s = .next { s with refused := true } := by simp [onRequestPort, h, refuse, State.withRefused]

/-- Everything ENCODE can do: it changes nothing and gives one reply (R110). -/
theorem encodeOp_cases (c : CommandCode) (a d : Nat) (s : State) :
    (c = .swReset ∧ encodeOp c a d s =
        .next (s.pushReply ⟨.ok, .frame (resetWord s.profile) (bytesBe (resetWord s.profile) s.profile.frameBytes)⟩))
    ∨ (c ≠ .swReset ∧ addrOk s.profile c a = false ∧
        encodeOp c a d s = .next (s.pushReply ⟨.error .invalidAddress, .operand a⟩))
    ∨ (c ≠ .swReset ∧ addrOk s.profile c a = true ∧ 2 ^ s.profile.dataW ≤ d ∧
        encodeOp c a d s = .next (s.pushReply ⟨.error .invalidData, .operand d⟩))
    ∨ (c ≠ .swReset ∧ addrOk s.profile c a = true ∧ d < 2 ^ s.profile.dataW ∧
        encodeOp c a d s = .next (s.pushReply ⟨.ok, .frame (pack s.profile (s.profile.code c) a d)
          (bytesBe (pack s.profile (s.profile.code c) a d) s.profile.frameBytes)⟩)) := by
  by_cases h : c = .swReset
  · exact .inl ⟨h, by simp [encodeOp, h, replyOk]⟩
  · by_cases ha : addrOk s.profile c a = true
    · by_cases hd : d < 2 ^ s.profile.dataW
      · exact .inr (.inr (.inr ⟨h, ha, hd, by simp [encodeOp, h, ha, hd, dataOk, replyOk]⟩))
      · exact .inr (.inr (.inl ⟨h, ha, by omega, by simp [encodeOp, h, ha, hd, dataOk, raise]⟩))
    · have ha : addrOk s.profile c a = false := by simpa using ha
      exact .inr (.inl ⟨h, ha, by simp [encodeOp, h, ha, raise]⟩)

/-- Everything the SET of one axis can do (R150, R163): commit one well-formed configuration, or one error. -/
theorem setAxis_cases (X : Axis) (v : Nat) (s : State) :
    (v < s.profile.domainSize X ∧ s.profile.cfgWF (impliedWrites s.profile X v (s.cfg.set X v)) = true ∧
        setAxis X v s = .next ((s.withCfg (impliedWrites s.profile X v (s.cfg.set X v))).pushReply ⟨.ok, .none⟩))
    ∨ (s.profile.domainSize X ≤ v ∧ setAxis X v s = .next (s.pushReply ⟨.error .unsupportedSetting, .setting X v⟩))
    ∨ (v < s.profile.domainSize X ∧ s.profile.cfgWF (impliedWrites s.profile X v (s.cfg.set X v)) = false ∧
        setAxis X v s = .next (s.pushReply ⟨.error .incompatibleConfiguration, .setting X v⟩)) := by
  by_cases hd : v < s.profile.domainSize X
  · by_cases hw : s.profile.cfgWF (impliedWrites s.profile X v (s.cfg.set X v)) = true
    · exact .inl ⟨hd, hw, by simp [setAxis, Profile.inDomain, hd, hw, replyOk]⟩
    · have hw : s.profile.cfgWF (impliedWrites s.profile X v (s.cfg.set X v)) = false := by simpa using hw
      exact .inr (.inr ⟨hd, hw, by simp [setAxis, Profile.inDomain, hd, hw, raise]⟩)
  · exact .inr (.inl ⟨by omega, by simp [setAxis, Profile.inDomain, hd, raise]⟩)

/-- Everything SET_DATA_RATE can do (R152). -/
theorem setRate_cases (n t : ConverterCore) (i : Nat) (s : State) :
    (t = n ∧ i < s.profile.domainSize (rateAxis n) ∧
        setRate n t i s = .next ((s.withCfg (s.cfg.set (rateAxis n) i)).pushReply ⟨.ok, .none⟩))
    ∨ ((t ≠ n ∨ s.profile.domainSize (rateAxis n) ≤ i) ∧
        setRate n t i s = .next (s.pushReply ⟨.error .unsupportedSetting, .rateSetting (rateAxis n) t i⟩)) := by
  by_cases ht : t = n
  · by_cases hi : i < s.profile.domainSize (rateAxis n)
    · exact .inl ⟨ht, hi, by simp [setRate, Profile.inDomain, ht, hi, replyOk]⟩
    · exact .inr ⟨.inr (by omega), by simp [setRate, Profile.inDomain, ht, hi, raise]⟩
  · exact .inr ⟨.inl ht, by simp [setRate, ht, raise]⟩

/-- Everything read completion can do on a latched sample (R205): the sample is consumed, a single-shot conversion
ends, and the reply is the decoded value or IntegrityCheckFailed. -/
theorem completeRead_cases {s : State} {r : RawSample} {c : AdcConfig} (hr : s.raw = some r) (hc : s.acq = some c) :
    (∃ u q, decodeSample s.profile r c = .value u q ∧
        completeRead s = .next ((s.clearSample.withConv s.conv.afterRead).pushReply ⟨.ok, .physical u q⟩))
    ∨ (decodeSample s.profile r c = .integrityCheckFailed ∧
        completeRead s
          = .next ((s.clearSample.withConv s.conv.afterRead).pushReply ⟨.error .integrityCheckFailed, .none⟩)) := by
  cases e : decodeSample s.profile r c with
  | value u q => exact .inl ⟨u, q, rfl, by simp [completeRead, hr, hc, e, replyOk]⟩
  | integrityCheckFailed => exact .inr ⟨rfl, by simp [completeRead, hr, hc, e, raise]⟩

/-- Read completion on an empty latch is the model's one fault. -/
theorem completeRead_empty {s : State} (h : s.raw = none ∨ s.acq = none) : completeRead s = .fault .emptyLatch := by
  cases hr : s.raw with
  | none => simp [completeRead, hr]
  | some r =>
    cases hc : s.acq with
    | none => simp [completeRead, hr, hc]
    | some c => simp [hr, hc] at h

/-- Read completion, whatever it answers, leaves one reply and a state without a sample (R205). -/
theorem completeRead_next {s t : State} (h : completeRead s = .next t) :
    ∃ r : Reply, t = (s.clearSample.withConv s.conv.afterRead).pushReply r
      ∧ (r.status = .ok ∨ r = ⟨.error .integrityCheckFailed, .none⟩) := by
  cases hr : s.raw with
  | none => simp [completeRead, hr] at h
  | some r =>
    cases hc : s.acq with
    | none => simp [completeRead, hr, hc] at h
    | some c =>
      obtain ⟨u, q, _, e⟩ | ⟨_, e⟩ := completeRead_cases hr hc <;> rw [e] at h <;> cases h
      · exact ⟨_, rfl, .inl rfl⟩
      · exact ⟨_, rfl, .inr rfl⟩

/-- Everything START can do (R202). -/
theorem startOp_cases (m : ConvMode) (s : State) :
    (s.conv = .idle ∧ startOp m s
        = .next (((s.withConv (.ofMode m)).clearSample).pushReply ⟨.ok, .command s.profile.startFrame⟩))
    ∨ (s.conv ≠ .idle ∧ startOp m s = .next (s.pushReply ⟨.error .alreadyRunning, .running s.conv⟩)) := by
  by_cases h : s.conv = .idle
  · exact .inl ⟨h, by simp [startOp, h, replyOk]⟩
  · exact .inr ⟨h, by simp [startOp, h, raise]⟩

/-- Everything READ can do (R206). -/
theorem readOp_cases (s : State) :
    (s.conv = .idle ∧ readOp s = .next (s.pushReply ⟨.error .noConversionInProgress, .none⟩))
    ∨ (s.conv ≠ .idle ∧ s.sv = true ∧ readOp s = completeRead s)
    ∨ (s.conv ≠ .idle ∧ s.sv = false ∧ readOp s = .next (s.withPend true)) := by
  by_cases h : s.conv = .idle
  · exact .inl ⟨h, by simp [readOp, h, raise]⟩
  · cases e : s.sv
    · exact .inr (.inr ⟨h, rfl, by simp [readOp, h, e]⟩)
    · exact .inr (.inl ⟨h, rfl, by simp [readOp, h, e]⟩)

/-- Everything SAMPLE_READY can do (R208, R89.6). -/
theorem sampleReady_cases (bits : Nat) (chk : Option Nat) (code : Nat) (s : State) :
    (sampleFits s.profile ⟨code, bits, chk⟩ = false ∧ execSampleReady bits chk code s = .next s.withRefused)
    ∨ (sampleFits s.profile ⟨code, bits, chk⟩ = true ∧ s.conv = .idle ∧ execSampleReady bits chk code s = .next s)
    ∨ (sampleFits s.profile ⟨code, bits, chk⟩ = true ∧ s.conv ≠ .idle ∧ s.pend = true ∧
        execSampleReady bits chk code s = completeRead ((s.latchSample ⟨code, bits, chk⟩).withPend false))
    ∨ (sampleFits s.profile ⟨code, bits, chk⟩ = true ∧ s.conv ≠ .idle ∧ s.pend = false ∧
        execSampleReady bits chk code s = .next (s.latchSample ⟨code, bits, chk⟩)) := by
  by_cases hf : sampleFits s.profile ⟨code, bits, chk⟩ = true
  · by_cases h : s.conv = .idle
    · exact .inr (.inl ⟨hf, h, by simp [execSampleReady, hf, h]⟩)
    · cases e : s.pend
      · exact .inr (.inr (.inr ⟨hf, h, rfl, by simp [execSampleReady, hf, h, e]⟩))
      · exact .inr (.inr (.inl ⟨hf, h, rfl, by simp [execSampleReady, hf, h, e]⟩))
  · have hf : sampleFits s.profile ⟨code, bits, chk⟩ = false := by simpa using hf
    exact .inl ⟨hf, by simp [execSampleReady, hf, refuse]⟩

/-- Everything TIMEOUT can do (R209). -/
theorem timeout_cases (s : State) :
    (s.pend = true ∧ execTimeout s = .next ((s.withPend false).pushReply ⟨.error .conversionTimeout, .none⟩))
    ∨ (s.pend = false ∧ execTimeout s = .next s) := by
  cases e : s.pend
  · exact .inr ⟨rfl, by simp [execTimeout, e]⟩
  · exact .inl ⟨rfl, by simp [execTimeout, e, raise]⟩

end Sys2Proof.Laws
end

