-- ==== Sys2Proof/Laws/PerInstr.lean ====
section
/-! SUPPORT. The family RowMatch: the encoding of every well-formed instruction under P0 has the bits its row of
spec/opcode_table.json fixes. -/

namespace Sys2Proof.Laws

/-- The bits of a spelling, numbered as the opcode table numbers them: a frame's bytes most-significant first. -/
def tableBits : Spelling → Nat
  | .record _ _ _ _ => 0
  | .word w         => w.toNat
  | .frame bytes    => natBe bytes

theorem word_bits {op a0 a1 a2 : Nat} (h : op < 2 ^ 8) (h0 : a0 < 2 ^ 8) (h1 : a1 < 2 ^ 16) (h2 : a2 < 2 ^ 32) :
    (wordOf op a0 a1 a2).toNat = op * 2 ^ 56 + a0 * 2 ^ 48 + a1 * 2 ^ 32 + a2 := by
  rw [wordOf, BitVec.toNat_ofNat, Nat.mod_eq_of_lt]
  norm_num at *
  omega

/-- The bits of a P0 frame are its packed fields (R62, R114). -/
theorem frame_bits {c : CommandCode} {a d : Nat} (ha : a < 2 ^ 4) (hd : d < 2 ^ 16) :
    tableBits (encodeFrame P0 c a d) = P0.code c * 2 ^ 20 + a * 2 ^ 16 + d := by
  have hc : P0.code c < 2 ^ P0.cmdW := code_lt p0_wf c
  show natBe (bytesBe (pack P0 (P0.code c) a d) P0.frameBytes) = _
  rw [natBe_bytesBe (frame_fits p0_wf (pack_lt hc ha hd)), pack_eq_add _ ha hd]
  rfl

/-- A field the opcode table fixes: its lowest bit, its width and its value. -/
structure FixedField where
  lo    : Nat
  width : Nat
  value : Nat
  deriving DecidableEq, Repr

/-- The runs of fixed bits of each row: the opcode table's mask and match. -/
def fixedFields : Instr → List FixedField
  | .comNop _ _          => [⟨20, 4, 0x0⟩]
  | .comWrite _ _        => [⟨20, 4, 0x1⟩]
  | .comUpdate _ _       => [⟨20, 4, 0x2⟩]
  | .comWriteUpdate _ _  => [⟨20, 4, 0x3⟩]
  | .comPowerDown _ _    => [⟨20, 4, 0x4⟩]
  | .comLdacMask _ _     => [⟨20, 4, 0x5⟩]
  | .comSwReset _ _      => [⟨0, 24, 0x601234⟩]
  | .comGain _ _         => [⟨20, 4, 0x7⟩]
  | .comDcen _ _         => [⟨20, 4, 0x8⟩]
  | .comReadback _ _     => [⟨20, 4, 0x9⟩]
  | .comUpdateAllCh _ _  => [⟨16, 8, 0xA0⟩]
  | .comUpdateAllDac _ _ => [⟨16, 8, 0xB0⟩]
  | .encode _ _ _        => [⟨56, 8, 0x01⟩]
  | .render              => [⟨0, 64, 0x0200000000000000⟩]
  | .start _             => [⟨56, 8, 0x03⟩, ⟨0, 48, 0⟩]
  | .stop                => [⟨0, 64, 0x0400000000000000⟩]
  | .read                => [⟨0, 64, 0x0500000000000000⟩]
  | .setConvMode _       => [⟨32, 32, 0x10000000⟩]
  | .setDataRate _ _ _   => [⟨56, 8, 0x11⟩]
  | .setFilter _         => [⟨32, 32, 0x12000000⟩]
  | .setErrCheck _       => [⟨32, 32, 0x13000000⟩]
  | .setPower _          => [⟨32, 32, 0x14000000⟩]
  | .setIdacMag _        => [⟨32, 32, 0x15000000⟩]
  | .setIdacMux _        => [⟨32, 32, 0x16000000⟩]
  | .setRefSrc _         => [⟨32, 32, 0x17000000⟩]
  | .setDiff _           => [⟨32, 32, 0x18000000⟩]
  | .setRtd _            => [⟨32, 32, 0x19000000⟩]
  | .setPga _            => [⟨32, 32, 0x1A000000⟩]
  | .setAdcCh _          => [⟨32, 32, 0x1B000000⟩]
  | .sampleReady _ _ _   => [⟨56, 8, 0x20⟩, ⟨41, 7, 0⟩]
  | .timeout             => [⟨0, 64, 0x2100000000000000⟩]

namespace RowMatch

/-- The encoding of the instruction holds every fixed field of its row. -/
def Statement (i : Instr) : Prop :=
  WellFormed P0 i = true → ∀ f ∈ fixedFields i, field (tableBits (encode P0 i)) f.lo f.width = f.value

/-- A frame whose row fixes the command field. -/
theorem frame_row {c : CommandCode} {a d : Nat} (h : frameOperandsFit P0 a d = true) :
    field (tableBits (encodeFrame P0 c a d)) 20 4 = P0.code c := by
  simp only [frameOperandsFit, Bool.and_eq_true, decide_eq_true_eq] at h
  have ha : a < 2 ^ 4 := h.1
  have hd : d < 2 ^ 16 := h.2
  have hc : P0.code c < 2 ^ 4 := code_lt p0_wf c
  rw [frame_bits ha hd, field_eq]
  norm_num at *
  omega

/-- A frame whose row fixes the command field and the address. -/
theorem broadcast_row {c : CommandCode} {a d : Nat} (h : broadcastOperandsFit P0 a d = true) :
    field (tableBits (encodeFrame P0 c a d)) 16 8 = P0.code c * 16 := by
  simp only [broadcastOperandsFit, Bool.and_eq_true, decide_eq_true_eq] at h
  have ha : a = 0 := h.1
  have hd : d < 2 ^ 16 := h.2
  have hc : P0.code c < 2 ^ 4 := code_lt p0_wf c
  rw [ha, frame_bits (by norm_num) hd, field_eq]
  norm_num at *
  omega

/-- A word whose row fixes everything but a2. -/
theorem value_row {op v : Nat} (ho : op < 2 ^ 8) (h : a2Fits v = true) :
    field (wordOf op 0 0 v).toNat 32 32 = op * 2 ^ 24 := by
  simp only [a2Fits, decide_eq_true_eq] at h
  rw [word_bits ho (by norm_num) (by norm_num) h, field_eq]
  norm_num at *
  omega

theorem comNop (a d : Nat) : Statement (.comNop a d) := by
  intro h; simp only [fixedFields, List.forall_mem_singleton]; exact frame_row h

theorem comWrite (a d : Nat) : Statement (.comWrite a d) := by
  intro h; simp only [fixedFields, List.forall_mem_singleton]; exact frame_row h

theorem comUpdate (a d : Nat) : Statement (.comUpdate a d) := by
  intro h; simp only [fixedFields, List.forall_mem_singleton]; exact frame_row h

theorem comWriteUpdate (a d : Nat) : Statement (.comWriteUpdate a d) := by
  intro h; simp only [fixedFields, List.forall_mem_singleton]; exact frame_row h

theorem comPowerDown (a d : Nat) : Statement (.comPowerDown a d) := by
  intro h; simp only [fixedFields, List.forall_mem_singleton]; exact frame_row h

theorem comLdacMask (a d : Nat) : Statement (.comLdacMask a d) := by
  intro h; simp only [fixedFields, List.forall_mem_singleton]; exact frame_row h

theorem comSwReset (a d : Nat) : Statement (.comSwReset a d) := by
  intro h
  simp only [WellFormed, Bool.and_eq_true, decide_eq_true_eq] at h
  obtain ⟨rfl, rfl⟩ := h
  simp only [fixedFields, List.forall_mem_singleton]
  rfl

theorem comGain (a d : Nat) : Statement (.comGain a d) := by
  intro h; simp only [fixedFields, List.forall_mem_singleton]; exact frame_row h

theorem comDcen (a d : Nat) : Statement (.comDcen a d) := by
  intro h; simp only [fixedFields, List.forall_mem_singleton]; exact frame_row h

theorem comReadback (a d : Nat) : Statement (.comReadback a d) := by
  intro h; simp only [fixedFields, List.forall_mem_singleton]; exact frame_row h

theorem comUpdateAllCh (a d : Nat) : Statement (.comUpdateAllCh a d) := by
  intro h; simp only [fixedFields, List.forall_mem_singleton]; exact broadcast_row h

theorem comUpdateAllDac (a d : Nat) : Statement (.comUpdateAllDac a d) := by
  intro h; simp only [fixedFields, List.forall_mem_singleton]; exact broadcast_row h

theorem encode (c : CommandCode) (a d : Nat) : Statement (.encode c a d) := by
  intro h
  simp only [WellFormed, a2Fits, Bool.and_eq_true, decide_eq_true_eq] at h
  have hc : c.ordinal < 2 ^ 8 := by cases c <;> decide
  simp only [fixedFields, List.forall_mem_singleton]
  show field (wordOf 0x01 c.ordinal a d).toNat 56 8 = 0x01
  exact (fields_wordOf (by norm_num) hc h.1 h.2).1

theorem render : Statement .render := by
  intro _; simp only [fixedFields, List.forall_mem_singleton]; rfl

theorem start (m : ConvMode) : Statement (.start m) := by
  intro _
  cases m <;> simp only [fixedFields, List.forall_mem_cons, List.not_mem_nil, false_implies, implies_true, and_true] <;>
    exact ⟨rfl, rfl⟩

theorem stop : Statement .stop := by
  intro _; simp only [fixedFields, List.forall_mem_singleton]; rfl

theorem read : Statement .read := by
  intro _; simp only [fixedFields, List.forall_mem_singleton]; rfl

theorem setConvMode (v : Nat) : Statement (.setConvMode v) := by
  intro h; simp only [fixedFields, List.forall_mem_singleton]; exact value_row (by norm_num) h

theorem setDataRate (core tag : ConverterCore) (index : Nat) : Statement (.setDataRate core tag index) := by
  intro h
  simp only [WellFormed, a2Fits, decide_eq_true_eq] at h
  have hc : core.number < 2 ^ 8 := by cases core <;> decide
  have ht : tag.number < 2 ^ 16 := by cases tag <;> decide
  simp only [fixedFields, List.forall_mem_singleton]
  show field (wordOf 0x11 core.number tag.number index).toNat 56 8 = 0x11
  exact (fields_wordOf (by norm_num) hc ht h).1

theorem setFilter (v : Nat) : Statement (.setFilter v) := by
  intro h; simp only [fixedFields, List.forall_mem_singleton]; exact value_row (by norm_num) h

theorem setErrCheck (v : Nat) : Statement (.setErrCheck v) := by
  intro h; simp only [fixedFields, List.forall_mem_singleton]; exact value_row (by norm_num) h

theorem setPower (v : Nat) : Statement (.setPower v) := by
  intro h; simp only [fixedFields, List.forall_mem_singleton]; exact value_row (by norm_num) h

theorem setIdacMag (v : Nat) : Statement (.setIdacMag v) := by
  intro h; simp only [fixedFields, List.forall_mem_singleton]; exact value_row (by norm_num) h

theorem setIdacMux (v : Nat) : Statement (.setIdacMux v) := by
  intro h; simp only [fixedFields, List.forall_mem_singleton]; exact value_row (by norm_num) h

theorem setRefSrc (v : Nat) : Statement (.setRefSrc v) := by
  intro h; simp only [fixedFields, List.forall_mem_singleton]; exact value_row (by norm_num) h

theorem setDiff (v : Nat) : Statement (.setDiff v) := by
  intro h; simp only [fixedFields, List.forall_mem_singleton]; exact value_row (by norm_num) h

theorem setRtd (v : Nat) : Statement (.setRtd v) := by
  intro h; simp only [fixedFields, List.forall_mem_singleton]; exact value_row (by norm_num) h

theorem setPga (v : Nat) : Statement (.setPga v) := by
  intro h; simp only [fixedFields, List.forall_mem_singleton]; exact value_row (by norm_num) h

theorem setAdcCh (v : Nat) : Statement (.setAdcCh v) := by
  intro h; simp only [fixedFields, List.forall_mem_singleton]; exact value_row (by norm_num) h

theorem sampleReady (bits : Nat) (chk : Option Nat) (code : Nat) : Statement (.sampleReady bits chk code) := by
  intro h
  simp only [WellFormed, a2Fits, Bool.and_eq_true, decide_eq_true_eq] at h
  have hk : checkField 8 chk < 2 ^ 9 := by
    cases chk with
    | none => simp [checkField]
    | some x =>
      have := h.1.2
      simp only [Option.all_some, decide_eq_true_eq] at this
      simp only [checkField]
      omega
  have e : tableBits (Sys2Proof.encode P0 (.sampleReady bits chk code))
      = 0x20 * 2 ^ 56 + bits * 2 ^ 48 + checkField 8 chk * 2 ^ 32 + code :=
    word_bits (by norm_num) h.1.1 (by omega) h.2
  have hb := h.1.1
  have hc := h.2
  simp only [fixedFields, List.forall_mem_cons, List.not_mem_nil, false_implies, implies_true, and_true, e, field_eq]
  norm_num at *
  omega

theorem timeout : Statement .timeout := by
  intro _; simp only [fixedFields, List.forall_mem_singleton]; rfl

end RowMatch

end Sys2Proof.Laws
end

