-- ==== Sys2Proof/Laws/Step.lean ====
section
/-! SUPPORT. What one step can do, by its next input, and what one instruction can do, by its kind. -/

namespace Sys2Proof.Laws

open Sys2Proof.Machine Sys2Proof.Safety

/-- Everything the step can do under a well-formed profile, by the next input (R89, R320). -/
theorem step_cases {s : State} (h : s.profile.wf = true) :
    (s.inputs = [] ∧ step s = .next s)
    ∨ (∃ rest, s.inputs = .reset :: rest ∧ step s = .next (applyReset (s.withInputs rest)))
    ∨ (∃ sp rest i, s.inputs = .op sp :: rest ∧ decode s.profile sp = .instr i ∧ step s = exec i (s.withInputs rest))
    ∨ (∃ sp rest r, s.inputs = .op sp :: rest ∧ decode s.profile sp = .rejected r ∧
        step s = .next (s.withInputs rest).withRefused) := by
  cases e : s.inputs with
  | nil => exact .inl ⟨rfl, by simp [step, h, takeInput, e]⟩
  | cons x rest =>
    cases x with
    | reset => exact .inr (.inl ⟨rest, rfl, by simp [step, h, takeInput, e]⟩)
    | op sp =>
      cases d : decode s.profile sp with
      | instr i => exact .inr (.inr (.inl ⟨sp, rest, i, rfl, d, by simp [step, h, takeInput, e, d]⟩))
      | rejected r =>
        exact .inr (.inr (.inr ⟨sp, rest, r, rfl, d, by simp [step, h, takeInput, e, d, refuse]⟩))

/-- A row of the opcode table presented as the next input is the next one taken. -/
theorem takeInput_withFetchWord (s : State) (nbits w : Nat) :
    takeInput (s.withFetchWord nbits w) =
      match decode s.profile (tableSpelling s.profile nbits w) with
      | .instr i    => .instr i s
      | .rejected _ => .refused s := rfl

/-- An encoder operation is ENCODE of some command behind the request port (R110). -/
theorem exec_encoder {i : Instr} (h : isEncoder i = true) :
    ∃ c a d, ∀ s, exec i s = onRequestPort (encodeOp c a d) s := by
  cases i <;> simp only [isEncoder, Bool.false_eq_true] at h <;> exact ⟨_, _, _, fun _ => rfl⟩

/-- A SET operation is the SET of one axis, or of one data rate, behind the request port (R150, R152). -/
theorem exec_set {i : Instr} (h : isSet i = true) :
    (∃ X v, ∀ s, exec i s = onRequestPort (setAxis X v) s)
    ∨ (∃ n t k, ∀ s, exec i s = onRequestPort (setRate n t k) s) := by
  cases i <;> simp only [isSet, Bool.false_eq_true] at h <;>
    first
    | exact .inl ⟨_, _, fun _ => rfl⟩
    | exact .inr ⟨_, _, _, fun _ => rfl⟩

/-- Every operation is an encoder operation, a SET, or one of the six others. -/
theorem instr_kinds (i : Instr) :
    isEncoder i = true ∨ isSet i = true ∨ i = .render ∨ (∃ m, i = .start m) ∨ i = .stop ∨ i = .read
      ∨ (∃ b c k, i = .sampleReady b c k) ∨ i = .timeout := by
  cases i <;> simp [isEncoder, isSet]

/-- Everything an instruction can do. -/
inductive Effect : Instr → State → StepResult → Prop where
  /-- A request while a READ is held (R292). -/
  | blocked {i s} : portOf i = .request → s.pend = true → Effect i s (.next s.withRefused)
  /-- A sample that does not fit the profile (R89.6). -/
  | misfit {b c k s} : sampleFits s.profile ⟨k, b, c⟩ = false → Effect (.sampleReady b c k) s (.next s.withRefused)
  /-- ENCODE replies (R110). -/
  | encoded {i s} (r : Reply) : isEncoder i = true → s.pend = false →
      (∀ k, r.status = .error k → k ∈ errorKindsOf i) → Effect i s (.next (s.pushReply r))
  /-- A SET commits (R150, R163). -/
  | committed {i s} (cfg : AdcConfig) : isSet i = true → s.pend = false →
      (s.profile.cfgWF s.cfg = true → s.profile.cfgWF cfg = true) →
      Effect i s (.next ((s.withCfg cfg).pushReply ⟨.ok, .none⟩))
  /-- A SET reports (R150, R152). -/
  | setFailed {i s} (k : ErrorKind) (p : Payload) : isSet i = true → s.pend = false →
      (s.profile.cfgWF s.cfg = true → k ∈ errorKindsOf i) → Effect i s (.next (s.pushReply ⟨.error k, p⟩))
  /-- RENDER (R165). -/
  | rendered {s} : s.pend = false → Effect .render s
      (.next ((s.withDevCfg s.cfg).pushReply
        ⟨.ok, .rendered (renderWrites s.cfg) (renderBytes s.profile s.cfg)⟩))
  /-- START begins (R202). -/
  | started {s} (m : ConvMode) : s.pend = false → s.conv = .idle → Effect (.start m) s
      (.next (((s.withConv (.ofMode m)).clearSample).pushReply ⟨.ok, .command s.profile.startFrame⟩))
  /-- START reports AlreadyRunning (R202). -/
  | startFailed {s} (m : ConvMode) : s.pend = false → s.conv ≠ .idle → Effect (.start m) s
      (.next (s.pushReply ⟨.error .alreadyRunning, .running s.conv⟩))
  /-- STOP (R204). -/
  | stopped {s} : s.pend = false → Effect .stop s
      (.next (((s.withConv .idle).clearSample).pushReply ⟨.ok, .command s.profile.stopFrame⟩))
  /-- READ in IDLE (R206). -/
  | readIdle {s} : s.pend = false → s.conv = .idle → Effect .read s
      (.next (s.pushReply ⟨.error .noConversionInProgress, .none⟩))
  /-- READ holds (R206). -/
  | readHeld {s} : s.pend = false → s.conv ≠ .idle → s.sv = false → Effect .read s (.next (s.withPend true))
  /-- READ completes on a latched sample (R205, R206). -/
  | readDone {s} : s.pend = false → s.conv ≠ .idle → s.sv = true → Effect .read s (completeRead s)
  /-- SAMPLE_READY in IDLE (R208). -/
  | dropped {s b c k} : sampleFits s.profile ⟨k, b, c⟩ = true → s.conv = .idle →
      Effect (.sampleReady b c k) s (.next s)
  /-- SAMPLE_READY latches (R208). -/
  | latched {s b c k} : sampleFits s.profile ⟨k, b, c⟩ = true → s.conv ≠ .idle → s.pend = false →
      Effect (.sampleReady b c k) s (.next (s.latchSample ⟨k, b, c⟩))
  /-- SAMPLE_READY completes a held READ (R205, R208). -/
  | completed {s b c k} : sampleFits s.profile ⟨k, b, c⟩ = true → s.conv ≠ .idle → s.pend = true →
      Effect (.sampleReady b c k) s
        (.next (((s.clearSample.withPend false).withConv s.conv.afterRead).pushReply
          (readReply s.profile ⟨k, b, c⟩ s.devCfg)))
  /-- TIMEOUT completes a held READ (R209). -/
  | timedOut {s} : s.pend = true → Effect .timeout s
      (.next ((s.withPend false).pushReply ⟨.error .conversionTimeout, .none⟩))
  /-- TIMEOUT is ignored (R209). -/
  | ignored {s} : s.pend = false → Effect .timeout s (.next s)

/-- Read completion replies with `readReply` (R205). -/
theorem completeRead_eq {s : State} {r : RawSample} {c : AdcConfig} (hr : s.raw = some r) (hc : s.acq = some c) :
    completeRead s
      = .next ((s.clearSample.withConv s.conv.afterRead).pushReply (readReply s.profile r c)) := by
  obtain ⟨u, q, e, h⟩ | ⟨e, h⟩ := completeRead_cases hr hc <;> rw [h, readReply, e]

theorem readReply_error {P : Profile} {r : RawSample} {c : AdcConfig} {k : ErrorKind}
    (h : (readReply P r c).status = .error k) : readReply P r c = ⟨.error .integrityCheckFailed, .none⟩ := by
  unfold readReply at h ⊢
  cases e : decodeSample P r c with
  | value u q => simp [e] at h
  | integrityCheckFailed => rfl

/-- ENCODE's effect (R110). -/
theorem encodeOp_effect {i : Instr} {s : State} {c : CommandCode} {a d : Nat} (hi : isEncoder i = true)
    (hp : s.pend = false) (hk : c ≠ .swReset → ErrorKind.invalidAddress ∈ errorKindsOf i
      ∧ ErrorKind.invalidData ∈ errorKindsOf i) : Effect i s (encodeOp c a d s) := by
  obtain ⟨_, e⟩ | ⟨h, _, e⟩ | ⟨h, _, _, e⟩ | ⟨_, _, _, e⟩ := encodeOp_cases c a d s <;> rw [e] <;>
    refine .encoded _ hi hp fun k hk' => ?_
  · cases hk'
  · cases hk'; exact (hk h).1
  · cases hk'; exact (hk h).2
  · cases hk'

/-- The effect of the SET of one axis (R150, R282). -/
theorem setAxis_effect {i : Instr} {s : State} {X : Axis} {v : Nat} (hi : isSet i = true) (hp : s.pend = false)
    (hu : ErrorKind.unsupportedSetting ∈ errorKindsOf i)
    (hc : ErrorKind.incompatibleConfiguration ∈ errorKindsOf i ∨ (X ≠ .idacMux ∧ X ≠ .diff ∧ X ≠ .rtd)) :
    Effect i s (setAxis X v s) := by
  obtain ⟨_, hw, e⟩ | ⟨_, e⟩ | ⟨hv, hw, e⟩ := setAxis_cases X v s <;> rw [e]
  · exact .committed _ hi hp fun _ => hw
  · exact .setFailed _ _ hi hp fun _ => hu
  · refine .setFailed _ _ hi hp fun h => ?_
    rcases hc with hc | hX
    · exact hc
    · have e2 : impliedWrites s.profile X v (s.cfg.set X v) = s.cfg.set X v := by
        cases X <;> first | rfl | exact absurd rfl hX.2.2
      rw [e2, cfgWF_set_plain h hv hX] at hw
      cases hw

/-- The effect of SET_DATA_RATE (R152, R282). -/
theorem setRate_effect {s : State} (n t : ConverterCore) (k : Nat) (hp : s.pend = false) :
    Effect (.setDataRate n t k) s (setRate n t k s) := by
  obtain ⟨_, hv, e⟩ | ⟨_, e⟩ := setRate_cases n t k s <;> rw [e]
  · exact .committed _ rfl hp fun h => cfgWF_set_plain h hv (by cases n <;> simp [rateAxis])
  · exact .setFailed _ _ rfl hp fun _ => by simp [errorKindsOf]

/-- Everything `exec` can answer: the inversion lemma of the instruction set. -/
theorem exec_effect (i : Instr) (s : State) : Effect i s (exec i s) := by
  have gate : ∀ {body : State → StepResult}, portOf i = .request → exec i s = onRequestPort body s →
      (s.pend = false → Effect i s (body s)) → Effect i s (exec i s) := by
    intro body hr he hb
    rw [he]
    cases hp : s.pend
    · rw [onRequestPort_open hp]; exact hb hp
    · rw [onRequestPort_blocked hp]; exact .blocked hr hp
  have enc : ∀ c a d, isEncoder i = true → portOf i = .request → exec i s = onRequestPort (encodeOp c a d) s →
      (c ≠ .swReset → ErrorKind.invalidAddress ∈ errorKindsOf i ∧ ErrorKind.invalidData ∈ errorKindsOf i) →
      Effect i s (exec i s) :=
    fun c a d hi hr he hk => gate hr he fun hp => encodeOp_effect hi hp hk
  have set : ∀ X v, isSet i = true → portOf i = .request → exec i s = onRequestPort (setAxis X v) s →
      ErrorKind.unsupportedSetting ∈ errorKindsOf i →
      (ErrorKind.incompatibleConfiguration ∈ errorKindsOf i ∨ (X ≠ .idacMux ∧ X ≠ .diff ∧ X ≠ .rtd)) →
      Effect i s (exec i s) :=
    fun X v hi hr he hu hc => gate hr he fun hp => setAxis_effect hi hp hu hc
  cases i with
  | comNop a d | comWrite a d | comUpdate a d | comWriteUpdate a d | comPowerDown a d | comLdacMask a d
  | comSwReset a d | comGain a d | comDcen a d | comReadback a d | comUpdateAllCh a d | comUpdateAllDac a d =>
    exact enc _ a d rfl rfl rfl (by simp [errorKindsOf])
  | encode c a d => exact enc c a d rfl rfl rfl (fun h => by simp [errorKindsOf, h])
  | render => exact gate rfl rfl fun hp => .rendered hp
  | start m =>
    refine gate rfl rfl fun hp => ?_
    obtain ⟨h, e⟩ | ⟨h, e⟩ := startOp_cases m s <;> rw [e]
    · exact .started m hp h
    · exact .startFailed m hp h
  | stop => exact gate rfl rfl fun hp => .stopped hp
  | read =>
    refine gate rfl rfl fun hp => ?_
    obtain ⟨h, e⟩ | ⟨h, hs, e⟩ | ⟨h, hs, e⟩ := readOp_cases s <;> rw [e]
    · exact .readIdle hp h
    · exact .readDone hp h hs
    · exact .readHeld hp h hs
  | setConvMode v | setFilter v | setErrCheck v | setPower v | setIdacMag v | setIdacMux v | setRefSrc v
  | setDiff v | setRtd v | setPga v | setAdcCh v => exact set _ v rfl rfl rfl (by simp [errorKindsOf]) (by simp [errorKindsOf])
  | setDataRate n t k => exact gate rfl rfl fun hp => setRate_effect n t k hp
  | sampleReady b c k =>
    show Effect _ s (execSampleReady b c k s)
    obtain ⟨hf, e⟩ | ⟨hf, h, e⟩ | ⟨hf, h, hp, e⟩ | ⟨hf, h, hp, e⟩ := sampleReady_cases b c k s <;> rw [e]
    · exact .misfit hf
    · exact .dropped hf h
    · rw [completeRead_eq (s := (s.latchSample ⟨k, b, c⟩).withPend false) rfl rfl]
      exact .completed hf h hp
    · exact .latched hf h hp
  | timeout =>
    show Effect _ s (execTimeout s)
    obtain ⟨hp, e⟩ | ⟨hp, e⟩ := timeout_cases s <;> rw [e]
    · exact .timedOut hp
    · exact .ignored hp

/-- `exec` answers a next state, or the one fault: on a READ whose latches hold no value. -/
theorem exec_next_or_fault (i : Instr) (s : State) :
    (∃ t, exec i s = .next t)
      ∨ (exec i s = .fault .emptyLatch ∧ i = .read ∧ s.sv = true ∧ (s.raw = none ∨ s.acq = none)) := by
  have h := exec_effect i s
  generalize e : exec i s = o at h ⊢
  cases h
  case readDone hp hc hs =>
    cases hr : s.raw with
    | none => exact .inr ⟨completeRead_empty (.inl hr), rfl, hs, .inl rfl⟩
    | some r =>
      cases ha : s.acq with
      | none => exact .inr ⟨completeRead_empty (.inr ha), rfl, hs, .inr rfl⟩
      | some c => exact .inl ⟨_, completeRead_eq hr ha⟩
  all_goals exact .inl ⟨_, rfl⟩

end Sys2Proof.Laws
end

