-- ==== Sys2Proof/Machine/Assembler.lean ====
section
/-! DEFINITION. The text syntax of requests and events (R90) and its pseudo-operations (R91): a line of text gives
the operations it stands for, and their request words. -/

namespace Sys2Proof.Machine

/-- The pseudo-operations (R91). -/
inductive Pseudo where
  | dacSet (ch v : Nat)
  | dacReset
  | measureOnce
  | measureStop
  deriving DecidableEq, Repr

/-- What each pseudo-operation expands to, in order (R91). -/
def Pseudo.expand : Pseudo → List Instr
  | .dacSet ch v => [.encode .writeUpdate ch v]
  | .dacReset    => [.encode .swReset 0 0]
  | .measureOnce => [.start .singleShot, .read]
  | .measureStop => [.read, .stop]

/-- The line up to its comment (R90: `;` starts a comment). -/
def dropComment : List Char → List Char
  | []      => []
  | c :: cs => if c = ';' then [] else c :: dropComment cs

/-- The text without the spaces and tabs at its start. -/
def dropBlanks : List Char → List Char
  | []      => []
  | c :: cs => if c = ' ' ∨ c = '\t' then dropBlanks cs else c :: cs

/-- The text without the spaces and tabs at both ends. -/
def trimBlanks (t : List Char) : List Char := (dropBlanks (dropBlanks t).reverse).reverse

/-- The pieces of a text between occurrences of a character. -/
def piecesAt (sep : Char) : List Char → List (List Char)
  | []      => [[]]
  | c :: cs =>
    if c = sep then [] :: piecesAt sep cs
    else
      match piecesAt sep cs with
      | []      => [[c]]
      | p :: ps => (c :: p) :: ps

/-- The first word of a text and the rest. -/
def firstWord : List Char → List Char × List Char
  | []      => ([], [])
  | c :: cs => if c = ' ' ∨ c = '\t' then ([], cs) else ((firstWord cs).1.cons c, (firstWord cs).2)

/-- The value of a digit below 16. -/
def digitValue (c : Char) : Option Nat :=
  if '0' ≤ c ∧ c ≤ '9' then some (c.toNat - '0'.toNat)
  else if 'a' ≤ c ∧ c ≤ 'f' then some (c.toNat - 'a'.toNat + 10)
  else if 'A' ≤ c ∧ c ≤ 'F' then some (c.toNat - 'A'.toNat + 10)
  else none

/-- The digits of a number in a base, after those read so far. -/
def digitsFrom (base acc : Nat) : List Char → Option Nat
  | []      => some acc
  | c :: cs =>
    match digitValue c with
    | some v => if v < base then digitsFrom base (acc * base + v) cs else none
    | none   => none

/-- A number, decimal or hexadecimal with `0x` (R90). -/
def numberOf : List Char → Option Nat
  | []                    => none
  | '0' :: 'x' :: c :: cs => digitsFrom 16 0 (c :: cs)
  | c :: cs               => digitsFrom 10 0 (c :: cs)

/-- A table of symbolic names. -/
abbrev Names := List (String × Nat)

/-- An operand: a symbolic name of the table, or a number (R90). -/
def operandOf (names : Names) (t : List Char) : Option Nat :=
  match names.find? (fun p => decide (p.1.toList = t)) with
  | some p => some p.2
  | none   => numberOf t

/-- The mnemonics of the command codes (R81). -/
def commandNames : Names :=
  [("COM_NOP", 0), ("COM_WRITE", 1), ("COM_UPDATE", 2), ("COM_WRITE_UPDATE", 3), ("COM_POWER_DOWN", 4),
   ("COM_LDAC_MASK", 5), ("COM_SW_RESET", 6), ("COM_GAIN", 7), ("COM_DCEN", 8), ("COM_READBACK", 9),
   ("COM_UPDATE_ALL_CH", 10), ("COM_UPDATE_ALL_DAC", 11)]

/-- The names of the conversion modes (R23). -/
def modeNames : Names := [("SINGLE_SHOT", 0), ("CONTINUOUS", 1)]

/-- The names of the error-check modes (R23). -/
def checkNames : Names := [("NONE", 0), ("CHECKSUM", 1), ("CRC", 2)]

/-- The name of code 0 of DIFF and RTD (R23). -/
def offNames : Names := [("OFF", 0)]

/-- The name of code 0 of PGA (R23). -/
def bypassNames : Names := [("BYPASS", 0)]

/-- A data-rate value `DR<tag>:<index>` (R90, R152). -/
def rateOf : List Char → Option (ConverterCore × Nat)
  | 'D' :: 'R' :: rest =>
    match piecesAt ':' rest with
    | [t, i] =>
      match (numberOf t).bind coreOf, numberOf i with
      | some tag, some index => some (tag, index)
      | some _,   none       => none
      | none,     _          => none
    | _ => none
  | _ => none

/-- The check operand `chk=<value>` (R90). -/
def checkOperand : List Char → Option Nat
  | 'c' :: 'h' :: 'k' :: '=' :: t => numberOf t
  | _                             => none

/-- The line's operation when it has the mnemonic and the operands given (R90, R91); none where it spells none. -/
def assembleOp (m : List Char) (ops : List (List Char)) : Option (List Instr) :=
  let value (names : Names) (mk : Nat → Instr) : Option (List Instr) :=
    match ops with
    | [v] => (operandOf names v).map fun x => [mk x]
    | _   => none
  let bare (is : List Instr) : Option (List Instr) :=
    match ops with
    | []  => some is
    | _   => none
  if m = "ENCODE".toList then
    match ops with
    | [c, a, d] => do
      let c ← (operandOf commandNames c).bind commandOfOrdinal
      let a ← numberOf a
      let d ← numberOf d
      some [.encode c a d]
    | _ => none
  else if m = "RENDER".toList then bare [.render]
  else if m = "START".toList then
    match ops with
    | [t] => ((operandOf modeNames t).bind modeOf).map fun x => [.start x]
    | _   => none
  else if m = "STOP".toList then bare [.stop]
  else if m = "READ".toList then bare [.read]
  else if m = "SET_CONV_MODE".toList then value modeNames .setConvMode
  else if m = "SET_DATA_RATE".toList then
    match ops with
    | [n, r] => do
      let n ← (numberOf n).bind coreOf
      let r ← rateOf r
      some [.setDataRate n r.1 r.2]
    | _ => none
  else if m = "SET_FILTER".toList then value [] .setFilter
  else if m = "SET_ERR_CHECK".toList then value checkNames .setErrCheck
  else if m = "SET_POWER".toList then value [] .setPower
  else if m = "SET_IDAC_MAG".toList then value [] .setIdacMag
  else if m = "SET_IDAC_MUX".toList then value [] .setIdacMux
  else if m = "SET_REF_SRC".toList then value [] .setRefSrc
  else if m = "SET_DIFF".toList then value offNames .setDiff
  else if m = "SET_RTD".toList then value offNames .setRtd
  else if m = "SET_PGA".toList then value bypassNames .setPga
  else if m = "SET_ADC_CH".toList then value [] .setAdcCh
  else if m = "DAC_SET".toList then
    match ops with
    | [ch, v] => do
      let ch ← numberOf ch
      let v ← numberOf v
      some (Pseudo.dacSet ch v).expand
    | _ => none
  else if m = "DAC_RESET".toList then bare Pseudo.dacReset.expand
  else if m = "MEASURE_ONCE".toList then bare Pseudo.measureOnce.expand
  else if m = "MEASURE_STOP".toList then bare Pseudo.measureStop.expand
  else none

/-- An event line's operation, after the word `EV` (R90). -/
def assembleEvent (m : List Char) (ops : List (List Char)) : Option (List Instr) :=
  if m = "SAMPLE_READY".toList then
    match ops with
    | [b, k] => do
      let b ← numberOf b
      let k ← numberOf k
      some [.sampleReady b none k]
    | [b, k, c] => do
      let b ← numberOf b
      let k ← numberOf k
      let c ← checkOperand c
      some [.sampleReady b (some c) k]
    | _ => none
  else if m = "TIMEOUT".toList ∧ ops = [] then some [.timeout]
  else none

/-- The operand list of a text: its pieces between commas, none for a blank text (R90). -/
def operandsOf (t : List Char) : List (List Char) :=
  match trimBlanks t with
  | []      => []
  | c :: cs => (piecesAt ',' (c :: cs)).map trimBlanks

/-- The operations of one line of text (R90, R91): none where it spells none, and no operation for a blank line
or a comment. -/
def assembleLine (line : List Char) : Option (List Instr) :=
  match trimBlanks (dropComment line) with
  | []      => some []
  | c :: cs =>
    let w := firstWord (c :: cs)
    if w.1 = "EV".toList then
      let e := firstWord (dropBlanks w.2)
      assembleEvent e.1 (operandsOf e.2)
    else assembleOp w.1 (operandsOf w.2)

/-- The request words of one line (R84, R90); none where the line spells no operation or an operand does not fit
its field. -/
def assembleWords (P : Profile) (line : List Char) : Option (List Spelling) :=
  match assembleLine line with
  | some is => if is.all (WellFormed P) then some (is.map (encode P)) else none
  | none    => none

end Sys2Proof.Machine
end

