-- ==== Sys2Proof/Machine/Binary64.lean ====
section
/-! DEFINITION. `to_binary64(value)` (R251): the non-normative rendering of an exact value in IEEE 754 binary64,
rounded to nearest with ties to even. No rule of the core depends on it. -/

namespace Sys2Proof.Machine

/-- The exponent e with 2^e ≤ n/d < 2^(e+1), for positive n and d. -/
def binaryExponent (n d : Nat) : Int :=
  let e : Int := (n.log2 : Int) - (d.log2 : Int)
  if n * 2 ^ (-e).toNat < d * 2 ^ e.toNat then e - 1 else e

/-- n/d rounded to the nearest natural, ties to even. -/
def roundNearestEven (n d : Nat) : Nat :=
  let q := n / d
  let r := n % d
  if d < 2 * r ∨ (2 * r = d ∧ q % 2 = 1) then q + 1 else q

/-- The bits of |n/d| without a sign: exponent and significand fields as one natural; infinity beyond the range. -/
def binaryMagnitude (n d : Nat) : Nat :=
  let e := max (binaryExponent n d) (-1022)
  let s := 52 - e
  let m := roundNearestEven (n * 2 ^ s.toNat) (d * 2 ^ (-s).toNat)
  min ((e + 1022).toNat * 2 ^ 52 + m) (0x7FF * 2 ^ 52)

/-- `to_binary64(value)` (R251). -/
def toBinary64 (q : Rat) : BitVec 64 :=
  if q.num = 0 then 0
  else BitVec.ofNat 64 ((if q.num < 0 then 2 ^ 63 else 0) + binaryMagnitude q.num.natAbs q.den)

end Sys2Proof.Machine
end

