-- ==== Sys2Proof/Tests/Slice0.lean ====
section
/-! SUPPORT. The model's own tests: the WellFormed smoke, a written-out word for every row, one or two steps for
every operation with the expected result of 95_test_vectors.md, and a witness for the hypotheses of every statement. -/

namespace Sys2Proof.Tests

open Sys2Proof.Machine Sys2Proof.Safety

/-! WellFormed: each check refuses an ill-formed term (R80, R84, R86). -/

theorem test_wf_frame_address : WellFormed P0 (.comWrite 16 0) = false := by decide
theorem test_wf_frame_data : WellFormed P0 (.comWrite 0 0x10000) = false := by decide
theorem test_wf_reset_address : WellFormed P0 (.comSwReset 1 0x1234) = false := by decide
theorem test_wf_reset_data : WellFormed P0 (.comSwReset 0 0x1235) = false := by decide
theorem test_wf_broadcast_address : WellFormed P0 (.comUpdateAllCh 1 0) = false := by decide
theorem test_wf_broadcast_data : WellFormed P0 (.comUpdateAllDac 0 0x10000) = false := by decide
theorem test_wf_encode_address : WellFormed P0 (.encode .nop 0x10000 0) = false := by decide
theorem test_wf_encode_data : WellFormed P0 (.encode .nop 0 0x100000000) = false := by decide
theorem test_wf_value : WellFormed P0 (.setPga 0x100000000) = false := by decide
theorem test_wf_rate_index : WellFormed P0 (.setDataRate .core1 .core2 0x100000000) = false := by decide
theorem test_wf_sample_bits : WellFormed P0 (.sampleReady 0x100 none 0) = false := by decide
theorem test_wf_sample_check : WellFormed P0 (.sampleReady 24 (some 0x100) 0) = false := by decide
theorem test_wf_sample_code : WellFormed P0 (.sampleReady 24 none 0x100000000) = false := by decide

/-- Every row has a well-formed term at the ends of its fields. -/
theorem test_wf_accepts :
    ([.comNop 15 0xFFFF, .comWrite 15 0, .comUpdate 0 0xFFFF, .comWriteUpdate 7 0, .comPowerDown 0 0, .comLdacMask 1 1,
      .comSwReset 0 0x1234, .comGain 0 4, .comDcen 0 1, .comReadback 3 0, .comUpdateAllCh 0 0xFFFF, .comUpdateAllDac 0 0,
      .encode .updateAllDac 0xFFFF 0xFFFFFFFF, .render, .start .continuous, .stop, .read, .setConvMode 0xFFFFFFFF,
      .setDataRate .core2 .core1 0, .setFilter 0, .setErrCheck 0, .setPower 0, .setIdacMag 0, .setIdacMux 0, .setRefSrc 0,
      .setDiff 0, .setRtd 0, .setPga 0, .setAdcCh 0, .sampleReady 0xFF (some 0xFF) 0xFFFFFFFF, .timeout]
      : List Instr).all (WellFormed P0) = true := by decide

/-! Decoding: one word for every row. A frame is written out as cmd (4 bits), address (4), data (16) from R80 and R81; a
word as op (8), a0 (8), a1 (16), a2 (32) from R84 to R86. -/

theorem test_decode_comNop : decodeTableWord 24 0b0000_1111_0000000000000001 = some (.comNop 15 1) := by decide
theorem test_decode_comWrite : decodeTableWord 24 0b0001_0111_1111111111111111 = some (.comWrite 7 0xFFFF) := by decide
theorem test_decode_comUpdate : decodeTableWord 24 0b0010_0001_0000000000000010 = some (.comUpdate 1 2) := by decide
theorem test_decode_comWriteUpdate :
    decodeTableWord 24 0b0011_0010_1000000000000000 = some (.comWriteUpdate 2 0x8000) := by decide
theorem test_decode_comPowerDown :
    decodeTableWord 24 0b0100_0000_1111111111111111 = some (.comPowerDown 0 0xFFFF) := by decide
theorem test_decode_comLdacMask :
    decodeTableWord 24 0b0101_0000_0000000011111111 = some (.comLdacMask 0 0xFF) := by decide
theorem test_decode_comSwReset :
    decodeTableWord 24 0b0110_0000_0001001000110100 = some (.comSwReset 0 0x1234) := by decide
theorem test_decode_comGain : decodeTableWord 24 0b0111_0000_0000000000000100 = some (.comGain 0 4) := by decide
theorem test_decode_comDcen : decodeTableWord 24 0b1000_0000_0000000000000001 = some (.comDcen 0 1) := by decide
theorem test_decode_comReadback : decodeTableWord 24 0b1001_0011_0000000000000000 = some (.comReadback 3 0) := by decide
theorem test_decode_comUpdateAllCh :
    decodeTableWord 24 0b1010_0000_0001001000110100 = some (.comUpdateAllCh 0 0x1234) := by decide
theorem test_decode_comUpdateAllDac :
    decodeTableWord 24 0b1011_0000_1111111111111111 = some (.comUpdateAllDac 0 0xFFFF) := by decide
theorem test_decode_encode :
    decodeTableWord 64 0b00000001_00001001_0000000000000011_00000000000000000000000000000101
      = some (.encode .readback 3 5) := by decide
theorem test_decode_render :
    decodeTableWord 64 0b00000010_00000000_0000000000000000_00000000000000000000000000000000 = some .render := by decide
theorem test_decode_start :
    decodeTableWord 64 0b00000011_00000001_0000000000000000_00000000000000000000000000000000
      = some (.start .continuous) := by decide
theorem test_decode_stop : decodeTableWord 64 0x0400000000000000 = some .stop := by decide
theorem test_decode_read : decodeTableWord 64 0x0500000000000000 = some .read := by decide
theorem test_decode_setConvMode :
    decodeTableWord 64 0b00010000_00000000_0000000000000000_00000000000000000000000000000001
      = some (.setConvMode 1) := by decide
theorem test_decode_setDataRate :
    decodeTableWord 64 0b00010001_00000001_0000000000000010_00000000000000000000000000000011
      = some (.setDataRate .core1 .core2 3) := by decide
theorem test_decode_setFilter : decodeTableWord 64 0x1200000000000004 = some (.setFilter 4) := by decide
theorem test_decode_setErrCheck : decodeTableWord 64 0x1300000000000002 = some (.setErrCheck 2) := by decide
theorem test_decode_setPower : decodeTableWord 64 0x1400000000000001 = some (.setPower 1) := by decide
theorem test_decode_setIdacMag : decodeTableWord 64 0x1500000000000005 = some (.setIdacMag 5) := by decide
theorem test_decode_setIdacMux : decodeTableWord 64 0x1600000000000003 = some (.setIdacMux 3) := by decide
theorem test_decode_setRefSrc : decodeTableWord 64 0x1700000000000004 = some (.setRefSrc 4) := by decide
theorem test_decode_setDiff : decodeTableWord 64 0x1800000000000002 = some (.setDiff 2) := by decide
theorem test_decode_setRtd : decodeTableWord 64 0x1900000000000001 = some (.setRtd 1) := by decide
theorem test_decode_setPga : decodeTableWord 64 0x1A00000000000002 = some (.setPga 2) := by decide
theorem test_decode_setAdcCh : decodeTableWord 64 0x1B000000FFFFFFFF = some (.setAdcCh 0xFFFFFFFF) := by decide
theorem test_decode_sampleReady :
    decodeTableWord 64 0b00100000_00011000_0000000111011011_00000000010000000000000000000000
      = some (.sampleReady 24 (some 0xDB) 0x400000) := by decide
theorem test_decode_timeout : decodeTableWord 64 0x2100000000000000 = some .timeout := by decide

/-- The frames no row stands for: the reserved commands of P0 (R82), a broadcast row with a channel address, and a
software reset with other bits than RESET_WORD. -/
theorem test_decode_refused_frames :
    [0xC00000, 0xD00000, 0xE00000, 0xFFFFFF, 0xA10000, 0xB10000, 0x601235, 0x611234].map (decodeTableWord 24)
      = List.replicate 8 none := by decide

/-- A frame of another length is rejected (R65). -/
theorem test_decode_short_frame : decode P0 (.frame [0x17, 0xFF]) = .rejected (.frameLength 2) := by decide

/-- The words that R89.1 to R89.6 refuse by their own bits (95 section 2.7), each by its name. -/
theorem test_decode_refused_words :
    [0x0600000000000000, 0x010C000000000000, 0x0302000000000000, 0x0400000100000000, 0x1103000300000000,
      0x2018020000000000, 0x2018000500000000].map (fun w => decode P0 (.word w))
      = [.rejected (.unknownOp 6), .rejected (.noCommand 12), .rejected (.noMode 2), .rejected .unusedNotZero,
         .rejected (.noCore 3), .rejected (.checkForm 0x200), .rejected (.checkForm 5)] := by decide

/-- Encoding writes the words of 95 sections 2.1 and 3. -/
theorem test_encode_words :
    encode P0 (.comWriteUpdate 2 0x8000) = .frame [0x32, 0x80, 0x00]
    ∧ encode P0 (.encode .updateAllDac 0 0) = .word 0x010B000000000000
    ∧ encode P0 (.setDataRate .core1 .core2 0) = .word 0x1101000200000000
    ∧ encode P0 (.sampleReady 24 (some 0x86) 0x400000) = .word 0x2018018600400000 := by decide

/-- `unpack` and `cmd_of` of 95 section 2.1. -/
theorem test_unpack :
    unpack P0 0xA01234 = { cmd := 0xA, addr := 0, data := 0x1234 } ∧ cmdOf P0 0xA = .member .updateAllCh
    ∧ unpack P0 0xC00000 = { cmd := 0xC, addr := 0, data := 0 } ∧ cmdOf P0 0xC = .reserved 0xC
    ∧ unpack P0 0xFFFFFF = { cmd := 0xF, addr := 0xF, data := 0xFFFF } ∧ cmdOf P0 0xF = .reserved 0xF := by decide

/-! Small states. -/

/-- The configuration with these thirteen codes, in axis-id order (95's notation). -/
def cfgOf (m d1 d2 f e p im ix r d t g c : Nat) : AdcConfig :=
  { convMode := m, dataRate1 := d1, dataRate2 := d2, filter := f, errCheck := e, power := p, idacMag := im, idacMux := ix,
    refSrc := r, diff := d, rtd := t, pga := g, adcCh := c }

/-- P0 reset with another mirror. -/
def withMirror (c : AdcConfig) : State := { State.reset with cfg := c }

/-- P0 reset in a conversion state. -/
def running (c : ConvState) : State := { State.reset with conv := c }

/-- A READ is held. -/
def held (c : ConvState) : State := { running c with pend := true }

/-- A sample is latched, with P0's reset configuration as its snapshot. -/
def sampled (c : ConvState) (r : RawSample) : State :=
  { running c with sv := true, raw := some r, acq := some p0CfgReset }

/-- A good sample: its checksum is the one 95 section 2.6 gives. -/
def goodSample : RawSample := { code := 0x7FFFFF, bits := 24, chk := some 0x18 }

/-- A sample whose check field is wrong (95 E8). -/
def badSample : RawSample := { code := 0x7FFFFF, bits := 24, chk := some 0x19 }

/-- The state that answers, and nothing on a fault or a refusal. -/
def after (r : StepResult) : Option State :=
  match r with
  | .next t    => some t
  | .fault _   => none
  | .refused _ => none

/-- The last reply of the state that answers. -/
def lastReply (r : StepResult) : Option Reply := (after r).bind fun t => t.replies.getLast?

/-- The mirror of the state that answers. -/
def mirror (r : StepResult) : Option AdcConfig := (after r).map (·.cfg)

/-- CONV, SV and PEND of the state that answers (95 section 2.4). -/
def conversion (r : StepResult) : Option (ConvState × Bool × Bool) := (after r).map fun t => (t.conv, t.sv, t.pend)

/-- An ENCODE reply on OK. -/
def okFrame (f : Nat) (bytes : List Byte) : Option Reply := some ⟨.ok, .frame f bytes⟩

/-- A SET's OK. -/
def okSet : Option Reply := some ⟨.ok, .none⟩

/-- A SET's error. -/
def setError (k : ErrorKind) (X : Axis) (v : Nat) : Option Reply := some ⟨.error k, .setting X v⟩

/-! ENCODE and its rows (95 section 2.1). -/

theorem test_comNop_largest :
    lastReply (exec (.comNop 15 0) State.reset) = okFrame 0x0F0000 [0x0F, 0x00, 0x00] := by decide
theorem test_comNop_beyond :
    lastReply (exec (.comNop 16 0) State.reset) = some ⟨.error .invalidAddress, .operand 16⟩ := by decide
theorem test_comWrite_largest :
    lastReply (exec (.comWrite 7 0xFFFF) State.reset) = okFrame 0x17FFFF [0x17, 0xFF, 0xFF] := by decide
theorem test_comWrite_address_first :
    lastReply (exec (.comWrite 8 0x10000) State.reset) = some ⟨.error .invalidAddress, .operand 8⟩ := by decide
theorem test_comUpdate : lastReply (exec (.comUpdate 0 0) State.reset) = okFrame 0x200000 [0x20, 0x00, 0x00] := by decide
theorem test_comWriteUpdate :
    lastReply (exec (.comWriteUpdate 2 0x8000) State.reset) = okFrame 0x328000 [0x32, 0x80, 0x00] := by decide
theorem test_comWriteUpdate_data :
    lastReply (exec (.comWriteUpdate 0 0x10000) State.reset) = some ⟨.error .invalidData, .operand 0x10000⟩ := by decide
theorem test_comPowerDown :
    lastReply (exec (.comPowerDown 0 0xFFFF) State.reset) = okFrame 0x40FFFF [0x40, 0xFF, 0xFF] := by decide
theorem test_comLdacMask :
    lastReply (exec (.comLdacMask 0 0xFF) State.reset) = okFrame 0x5000FF [0x50, 0x00, 0xFF] := by decide
theorem test_comSwReset_ignores :
    lastReply (exec (.comSwReset 5 0xFFFFF) State.reset) = okFrame 0x601234 [0x60, 0x12, 0x34] := by decide
theorem test_comGain : lastReply (exec (.comGain 0 4) State.reset) = okFrame 0x700004 [0x70, 0x00, 0x04] := by decide
theorem test_comDcen : lastReply (exec (.comDcen 0 1) State.reset) = okFrame 0x800001 [0x80, 0x00, 0x01] := by decide
theorem test_comReadback :
    lastReply (exec (.comReadback 3 0) State.reset) = okFrame 0x930000 [0x93, 0x00, 0x00] := by decide
theorem test_comReadback_beyond :
    lastReply (exec (.comReadback 8 0) State.reset) = some ⟨.error .invalidAddress, .operand 8⟩ := by decide
theorem test_comUpdateAllCh :
    lastReply (exec (.comUpdateAllCh 0 0x1234) State.reset) = okFrame 0xA01234 [0xA0, 0x12, 0x34] := by decide
theorem test_comUpdateAllCh_channel :
    lastReply (exec (.comUpdateAllCh 1 0x1234) State.reset) = some ⟨.error .invalidAddress, .operand 1⟩ := by decide
theorem test_comUpdateAllDac :
    lastReply (exec (.comUpdateAllDac 0 0xFFFF) State.reset) = okFrame 0xB0FFFF [0xB0, 0xFF, 0xFF] := by decide
theorem test_comUpdateAllDac_beyond :
    lastReply (exec (.comUpdateAllDac 0x10 0) State.reset) = some ⟨.error .invalidAddress, .operand 0x10⟩ := by decide
theorem test_encode :
    lastReply (exec (.encode .write 7 0x0100) State.reset) = okFrame 0x170100 [0x17, 0x01, 0x00] := by decide
theorem test_encode_reset :
    lastReply (exec (.encode .swReset 255 0xFFFFFFFF) State.reset) = okFrame 0x601234 [0x60, 0x12, 0x34] := by decide

/-! SET (95 section 2.2). -/

theorem test_setConvMode :
    mirror (exec (.setConvMode 0) State.reset) = some (cfgOf 0 4 0 4 1 0 0 11 0 1 0 1 0) := by decide
theorem test_setConvMode_beyond :
    lastReply (exec (.setConvMode 2) State.reset) = setError .unsupportedSetting .convMode 2 := by decide
theorem test_setDataRate :
    mirror (exec (.setDataRate .core2 .core2 3) State.reset) = some (cfgOf 1 4 3 4 1 0 0 11 0 1 0 1 0) := by decide
theorem test_setDataRate_other_core :
    lastReply (exec (.setDataRate .core2 .core1 2) State.reset)
      = some ⟨.error .unsupportedSetting, .rateSetting .dataRate2 .core1 2⟩ := by decide
theorem test_setFilter :
    mirror (exec (.setFilter 0) State.reset) = some (cfgOf 1 4 0 0 1 0 0 11 0 1 0 1 0) := by decide
theorem test_setFilter_beyond :
    lastReply (exec (.setFilter 5) State.reset) = setError .unsupportedSetting .filter 5 := by decide
theorem test_setErrCheck :
    mirror (exec (.setErrCheck 2) State.reset) = some (cfgOf 1 4 0 4 2 0 0 11 0 1 0 1 0) := by decide
theorem test_setErrCheck_beyond :
    lastReply (exec (.setErrCheck 3) State.reset) = setError .unsupportedSetting .errCheck 3 := by decide
theorem test_setPower :
    mirror (exec (.setPower 1) State.reset) = some (cfgOf 1 4 0 4 1 1 0 11 0 1 0 1 0) := by decide
theorem test_setPower_beyond :
    lastReply (exec (.setPower 2) State.reset) = setError .unsupportedSetting .power 2 := by decide
theorem test_setIdacMag :
    mirror (exec (.setIdacMag 10) State.reset) = some (cfgOf 1 4 0 4 1 0 10 11 0 1 0 1 0) := by decide
theorem test_setIdacMag_beyond :
    lastReply (exec (.setIdacMag 11) State.reset) = setError .unsupportedSetting .idacMag 11 := by decide
theorem test_setIdacMux_conflict :
    lastReply (exec (.setIdacMux 3) (withMirror (cfgOf 1 4 0 4 1 0 0 8 0 0 1 1 0)))
      = setError .incompatibleConfiguration .idacMux 3 := by decide
theorem test_setIdacMux_implied :
    lastReply (exec (.setIdacMux 8) (withMirror (cfgOf 1 4 0 4 1 0 0 8 0 0 1 1 0))) = okSet := by decide
theorem test_setRefSrc :
    mirror (exec (.setRefSrc 4) State.reset) = some (cfgOf 1 4 0 4 1 0 0 11 4 1 0 1 0) := by decide
theorem test_setRefSrc_beyond :
    lastReply (exec (.setRefSrc 5) State.reset) = setError .unsupportedSetting .refSrc 5 := by decide
theorem test_setDiff_conflict :
    lastReply (exec (.setDiff 2) (withMirror (cfgOf 1 4 0 4 1 0 0 8 0 0 1 1 0)))
      = setError .incompatibleConfiguration .diff 2 := by decide
theorem test_setDiff_domain_first :
    lastReply (exec (.setDiff 9) (withMirror (cfgOf 1 4 0 4 1 0 0 8 0 0 1 1 0)))
      = setError .unsupportedSetting .diff 9 := by decide
theorem test_setRtd_conflict :
    exec (.setRtd 1) State.reset
      = .next (State.reset.pushReply ⟨.error .incompatibleConfiguration, .setting .rtd 1⟩) := by rfl
theorem test_setRtd_implies :
    mirror (exec (.setRtd 2) State.reset) = some (cfgOf 1 4 0 4 1 0 0 9 0 1 2 1 0) := by decide
theorem test_setPga_bypass :
    mirror (exec (.setPga 0) State.reset) = some (cfgOf 1 4 0 4 1 0 0 11 0 1 0 0 0) := by decide
theorem test_setPga_beyond :
    lastReply (exec (.setPga 7) State.reset) = setError .unsupportedSetting .pga 7 := by decide
theorem test_setAdcCh :
    mirror (exec (.setAdcCh 7) State.reset) = some (cfgOf 1 4 0 4 1 0 0 11 0 1 0 1 7) := by decide
theorem test_setAdcCh_beyond :
    lastReply (exec (.setAdcCh 8) State.reset) = setError .unsupportedSetting .adcCh 8 := by decide

/-! RENDER (95 section 2.3, rows 1 and 3). -/

theorem test_render_reset_bytes :
    renderBytes P0 p0CfgReset
      = [0x42, 0x00, 0x05, 0x4F, 0x00, 0x00, 0x43, 0x00, 0x00, 0x44, 0x00, 0x80, 0x45, 0x00, 0x04, 0x55, 0x00, 0x00,
         0x45, 0x00, 0x04, 0x46, 0x00, 0x01, 0x46, 0x00, 0x01, 0x4E, 0x00, 0x00, 0x4D, 0x00, 0xBB] := by decide
theorem test_render_row3 :
    (after (exec .render (withMirror (cfgOf 1 4 0 4 2 0 5 8 0 0 1 1 0)))).map (fun t => (t.devCfg, t.replies))
      = some (cfgOf 1 4 0 4 2 0 5 8 0 0 1 1 0,
          [⟨.ok, .rendered
            [⟨.power, 0⟩, ⟨.errCheck, 2⟩, ⟨.refSrc, 0⟩, ⟨.convMode, 1⟩, ⟨.filter, 4⟩, ⟨.dataRate1, 4⟩, ⟨.dataRate2, 0⟩,
             ⟨.pga, 1⟩, ⟨.adcCh, 0⟩, ⟨.diff, 0⟩, ⟨.rtd, 1⟩, ⟨.idacMag, 5⟩, ⟨.idacMux, 8⟩]
            [0x42, 0x00, 0x06, 0x4F, 0x00, 0x00, 0x43, 0x00, 0x00, 0x44, 0x00, 0x80, 0x45, 0x00, 0x04, 0x55, 0x00, 0x00,
             0x45, 0x00, 0x04, 0x46, 0x00, 0x0A, 0x46, 0x00, 0x0A, 0x4E, 0x00, 0x05, 0x4D, 0x00, 0xB8]⟩]) := by decide

/-! Conversion (95 section 2.4). -/

theorem test_start :
    exec (.start .continuous) State.reset
      = .next ((running .continuous).pushReply ⟨.ok, .command [0x08]⟩) := by rfl
theorem test_start_running :
    exec (.start .singleShot) (sampled .continuous goodSample)
      = .next ((sampled .continuous goodSample).pushReply ⟨.error .alreadyRunning, .running .continuous⟩) := by rfl
theorem test_stop_discards :
    exec .stop (sampled .converting goodSample) = .next (State.reset.pushReply ⟨.ok, .command [0x0A]⟩) := by rfl
theorem test_stop_idle : exec .stop State.reset = .next (State.reset.pushReply ⟨.ok, .command [0x0A]⟩) := by rfl
theorem test_read_value :
    lastReply (exec .read (sampled .converting goodSample))
      = some ⟨.ok, .physical .volts (41943035 / 16777216)⟩ := by decide +kernel
theorem test_read_bad_check :
    exec .read (sampled .converting badSample)
      = .next (State.reset.pushReply ⟨.error .integrityCheckFailed, .none⟩) := by rfl
/-- The snapshot is the device-effective configuration, not the mirror (R30, 90 C6). -/
theorem test_sampleReady_overwrites :
    (after (exec (.sampleReady 24 none 5)
        { sampled .continuous goodSample with cfg := cfgOf 1 4 0 4 0 0 0 11 0 0 0 1 0 })).map (fun t => (t.raw, t.acq))
      = some (some { code := 5, bits := 24, chk := none }, some p0CfgReset) := by decide
theorem test_sampleReady_completes :
    conversion (exec (.sampleReady 24 (some 0x18) 0x7FFFFF) (held .converting)) = some (.idle, false, false) := by
  decide +kernel
theorem test_timeout :
    exec .timeout (held .converting)
      = .next ((running .converting).pushReply ⟨.error .conversionTimeout, .none⟩) := by rfl
theorem test_timeout_ignored :
    exec .timeout (sampled .continuous goodSample) = .next (sampled .continuous goodSample) := by rfl

/-! The step: fetching, refusing, resetting. -/

theorem test_step_runs_the_word :
    step (State.reset.withFetchWord 64 0x0103000000008000)
      = .next (State.reset.pushReply ⟨.ok, .frame 0x308000 [0x30, 0x80, 0x00]⟩) := by rfl
theorem test_step_refuses_the_misfits :
    [0x2019000000000000, 0x2018000001000000].map (fun w =>
      (after (step ((running .continuous).withFetchWord 64 w))).map fun t => (t.refused, t.sv, t.replies))
      = [some (true, false, []), some (true, false, [])] := by decide
theorem test_step_refuses_while_held :
    step ((held .continuous).withFetchWord 64 0x0400000000000000)
      = .next { held .continuous with refused := true } := by rfl
theorem test_step_reset :
    step { held .continuous with cfg := cfgOf 0 0 0 0 0 0 0 0 0 0 0 0 0, refused := true, inputs := [.reset] }
      = .next { State.reset with refused := true } := by rfl
theorem test_step_without_input : step State.reset = .next State.reset := by rfl
theorem test_step_ill_formed_profile :
    step { State.reset with profile := { P0 with numDacCh := 9 } } = .refused .profileNotWellFormed := by rfl

/-! The decode pipeline (95 section 2.5) and the check function (95 section 2.6). -/

/-- The decode result with ERR_CHECK off and reference 0. -/
def decoded (diff rtd pga code bits : Nat) : DecodeResult :=
  decodeSample P0 { code := code, bits := bits, chk := none } (cfgOf 1 4 0 4 0 0 0 8 0 diff rtd pga 0)

theorem test_decode_signed :
    [decoded 1 0 1 0x800000 24, decoded 1 0 0 0x7FFFFF 24, decoded 1 0 3 0xC00000 24, decoded 1 0 2 1 32]
      = [.value .volts (-5 / 2), .value .volts (41943035 / 16777216), .value .volts (-5 / 16),
         .value .volts (5 / 8589934592)] := by decide +kernel
theorem test_decode_unsigned :
    [decoded 0 0 1 0xFFFFFF 24, decoded 0 0 1 0x800000 24, decoded 0 0 4 0xFFFFFFFF 32]
      = [.value .volts (5 / 2), .value .volts (4194304 / 3355443), .value .volts (5 / 16)] := by decide +kernel
theorem test_decode_rtd :
    [decoded 0 1 1 0x400000 24, decoded 0 1 2 0x200000 24, decoded 0 1 1 0xC00000 24]
      = [.value .ohms 1000, .value .ohms 250, .value .ohms (-1000)] := by decide +kernel
theorem test_checksum :
    [bytesBe 0x7FFFFF 3, bytesBe 0x123456 3, bytesBe 0x12345678 4].map p0Checksum = [0x18, 0x37, 0xAF] := by decide
theorem test_crc :
    [bytesBe 0x7FFFFF 3, bytesBe 0x400000 3, bytesBe 0x12345678 4].map p0Crc = [0x04, 0x86, 0x1C] := by
  decide +kernel
theorem test_integrity_absent_check :
    decodeSample P0 { code := 0x7FFFFF, bits := 24, chk := none } p0CfgReset = .integrityCheckFailed := by rfl

/-! The text syntax (R90, R91) and the binary64 rendering (R251). -/

theorem test_assemble_encode :
    assembleWords P0 "ENCODE COM_WRITE_UPDATE, 2, 0x8000 ; a comment".toList = some [.word 0x0103000200008000] := by decide
theorem test_assemble_rate :
    assembleWords P0 "SET_DATA_RATE 1, DR2:0".toList = some [.word 0x1101000200000000] := by decide
theorem test_assemble_event :
    assembleWords P0 "EV SAMPLE_READY 24, 0x400000, chk=0xDB".toList = some [.word 0x201801DB00400000] := by
  decide +kernel
theorem test_assemble_pseudo :
    assembleLine "MEASURE_ONCE".toList = some [.start .singleShot, .read]
    ∧ assembleLine "DAC_RESET".toList = some [.encode .swReset 0 0] := by decide
theorem test_assemble_unknown : assembleLine "ENCODE COM_FOO, 1, 2".toList = none := by decide

/-- 5/2 is 0x4004000000000000, -1 is 0xBFF0000000000000 and 1/10 is 0x3FB999999999999A in IEEE 754 binary64. -/
theorem test_binary64 :
    [toBinary64 (5 / 2), toBinary64 (-1), toBinary64 (1 / 10), toBinary64 0]
      = [0x4004000000000000, 0xBFF0000000000000, 0x3FB999999999999A, 0] := by decide +kernel

/-! Witnesses: for every statement with hypotheses, concrete inputs that meet them, clause by clause, at the ends of
their ranges. -/

/-- A state whose next input is this one. -/
def facing (s : State) (x : Input) : State := { s with inputs := [x] }

/-- A configuration with the single-ended RTD wiring on (95 section 2.2). -/
def rtd1 : AdcConfig := cfgOf 1 4 0 4 1 0 0 8 0 0 1 1 0

theorem witness_DecodeOfEncodeIsTheInstruction :
    P0.wf = true ∧ WellFormed P0 (.sampleReady 32 (some 0xFF) 0xFFFFFFFF) = true
    ∧ WellFormed P0 (.comUpdateAllDac 0 0xFFFF) = true := by decide

theorem witness_DecodeOfRecordIsTheInstruction :
    recordOf (recordFlagBit P0) (.sampleReady 24 (some 0xFF) 5) = some (0x20, 24, 0x1FF, 5)
    ∧ ∀ b c k, (.sampleReady 24 (some 0xFF) 5 : Instr) = .sampleReady b (some c) k → c < 2 ^ P0.checkW := by
  refine ⟨by decide, fun b c k h => ?_⟩
  cases h
  decide

theorem witness_AcceptedWordIsItsEncoding :
    decode P0 (.word 0x201801FFFFFFFFFF) = .instr (.sampleReady 24 (some 0xFF) 0xFFFFFFFF) := by decide

theorem witness_AcceptedFrameIsItsEncoding :
    P0.wf = true ∧ decode P0 (.frame [0x1F, 0xFF, 0xFF]) = .instr (.comWrite 15 0xFFFF) := by decide

theorem witness_UnpackIsTotal :
    P0.wf = true ∧ 0xFFFFFF < 2 ^ P0.frameW ∧ P0.code .updateAllDac = 0xB ∧ ∀ c, P0.code c ≠ 0xC :=
  ⟨by decide, by decide, rfl, fun c => by cases c <;> decide⟩

theorem witness_StepRunsTheDecodedInstruction :
    (facing (held .converting) (.op (.word 0x2100000000000000))).profile.wf = true
    ∧ (facing (held .converting) (.op (.word 0x2100000000000000))).inputs = [.op (.word 0x2100000000000000)]
    ∧ decode P0 (.word 0x2100000000000000) = .instr .timeout
    ∧ decode P0 (tableSpelling P0 24 0x17FFFF) = .instr (.comWrite 7 0xFFFF) := by decide

theorem witness_RejectedSpellingOnlySetsRefused :
    (facing State.reset (.op (.frame [0xC0, 0x00, 0x00]))).profile.wf = true
    ∧ (facing State.reset (.op (.frame [0xC0, 0x00, 0x00]))).inputs = [.op (.frame [0xC0, 0x00, 0x00])]
    ∧ decode P0 (.frame [0xC0, 0x00, 0x00]) = .rejected (.reservedCommand 0xC) := by decide

/-- The hypotheses of RefusedRequests, item by item, on the fields of a written-out word. -/
theorem witness_RefusedRequests :
    (facing State.reset (.op (.word 0x0600000000000000))).profile.wf = true
    ∧ (facing State.reset (.op (.word 0x0600000000000000))).inputs = [.op (.word 0x0600000000000000)]
    ∧ field 0x0600000000000000 56 8 = 0x06
    ∧ (field 0x0400000100000000 56 8 = 0x04 ∧ field 0x0400000100000000 32 16 ≠ 0)
    ∧ (field 0x0300000000000001 56 8 = 0x03 ∧ field 0x0300000000000001 0 32 ≠ 0)
    ∧ (field 0x1B01000000000000 56 8 = 0x1B ∧ field 0x1B01000000000000 48 8 ≠ 0)
    ∧ (field 0x010C000000000000 56 8 = 0x01 ∧ 12 ≤ field 0x010C000000000000 48 8)
    ∧ (field 0x0302000000000000 56 8 = 0x03 ∧ 2 ≤ field 0x0302000000000000 48 8)
    ∧ (field 0x1103000300000000 56 8 = 0x11 ∧ field 0x1103000300000000 48 8 ∉ [1, 2])
    ∧ (field 0x1101000000000000 56 8 = 0x11 ∧ field 0x1101000000000000 32 16 ∉ [1, 2])
    ∧ (field 0x2019000000000000 56 8 = 0x20 ∧ field 0x2019000000000000 48 8 ∉ P0.resSet)
    ∧ (field 0x2018000001000000 56 8 = 0x20 ∧ 2 ^ field 0x2018000001000000 48 8 ≤ field 0x2018000001000000 0 32)
    ∧ (field 0x2018020000000000 56 8 = 0x20 ∧ 2 ^ 9 ≤ field 0x2018020000000000 32 16)
    ∧ (field 0x201800FF00000000 56 8 = 0x20 ∧ field 0x201800FF00000000 32 16 < 2 ^ 8
        ∧ field 0x201800FF00000000 32 16 ≠ 0)
    ∧ ((facing (held .continuous) (.op (.word 0x0400000000000000))).pend = true
        ∧ field 0x0400000000000000 56 8 ∉ [0x20, 0x21])
    ∧ P0.checkW ≤ 8 ∧ 8 ≤ P0.checkW := by decide

/-- A word, and its record, that fall under no item of R89, at both ends of the check field. -/
theorem witness_RefusedRequests_taken :
    field 0x201801FF00FFFFFF 56 8 = 0x20 ∧ field 0x201801FF00FFFFFF 48 8 ∈ P0.resSet
    ∧ field 0x201801FF00FFFFFF 0 32 < 2 ^ field 0x201801FF00FFFFFF 48 8 ∧ field 0x201801FF00FFFFFF 32 16 < 2 ^ 9
    ∧ 2 ^ 8 ≤ field 0x201801FF00FFFFFF 32 16
    ∧ (after (step (facing (running .continuous) (.op (.record 0x20 24 0x1FF 0xFFFFFF))))).map
        (fun t => (t.refused, t.raw)) = some (false, some { code := 0xFFFFFF, bits := 24, chk := some 0xFF }) := by decide

theorem witness_RefusedIsNeverCleared :
    step (facing { State.reset with refused := true } .reset) = .next { State.reset with refused := true } := by rfl

theorem witness_StepTakesOneInput :
    step (facing State.reset (.op (.word 0x0400000000000000)))
      = .next (State.reset.pushReply ⟨.ok, .command [0x0A]⟩) := by rfl

theorem witness_EncodeFollowsItsPseudocode :
    State.reset.profile.wf = true ∧ State.reset.pend = false ∧ addrOk P0 .write 8 = false ∧ addrOk P0 .write 7 = true
    ∧ 2 ^ P0.dataW ≤ 0x10000 ∧ 0xFFFF < 2 ^ P0.dataW := by decide

/-- Both sides of InvalidAddressByClass hold at one beyond each class. -/
theorem witness_InvalidAddressByClass :
    State.reset.pend = false ∧ P0.numDacCh ≤ 8 ∧ 1 ≠ P0.broadcastAddr ∧ 2 ^ P0.addrW ≤ 16
    ∧ lastReply (exec (.encode .update 8 0) State.reset) = some ⟨.error .invalidAddress, .operand 8⟩
    ∧ lastReply (exec (.encode .updateAllDac 1 0) State.reset) = some ⟨.error .invalidAddress, .operand 1⟩
    ∧ lastReply (exec (.encode .gain 16 0) State.reset) = some ⟨.error .invalidAddress, .operand 16⟩ := by decide

theorem witness_ChannelCommandsEncode :
    State.reset.profile.wf = true ∧ State.reset.pend = false ∧ 7 < P0.numDacCh ∧ 0xFFFF < 2 ^ P0.dataW ∧ P0.numDacCh ≤ 8
    ∧ 2 ^ P0.dataW ≤ 0x10000 := by decide

theorem witness_BroadcastCommandsEncode :
    State.reset.profile.wf = true ∧ State.reset.pend = false ∧ 0 = P0.broadcastAddr ∧ 1 ≠ P0.broadcastAddr
    ∧ 0xFFFF < 2 ^ P0.dataW ∧ 2 ^ P0.dataW ≤ 0x10000 := by decide

theorem witness_DeviceCommandsEncode :
    State.reset.profile.wf = true ∧ State.reset.pend = false ∧ 15 < 2 ^ P0.addrW ∧ 2 ^ P0.addrW ≤ 16
    ∧ 0xFFFF < 2 ^ P0.dataW ∧ 2 ^ P0.dataW ≤ 0x10000 := by decide

theorem witness_SoftwareResetIgnoresItsOperands :
    State.reset.profile.wf = true ∧ State.reset.pend = false ∧ State.reset.profile = P0 := by decide

theorem witness_EncodeThenUnpackRecovers :
    State.reset.profile.wf = true ∧ State.reset.pend = false ∧ addrOk P0 .nop 15 = true ∧ 0xFFFF < 2 ^ P0.dataW
    ∧ (addressClass .write = .ch ∧ 8 = P0.numDacCh) ∧ (addressClass .nop = .dev ∧ 16 = 2 ^ P0.addrW)
    ∧ (addressClass .updateAllCh = .all ∧ 1 = P0.broadcastAddr + 1) := by decide

theorem witness_FrameBytesMostSignificantFirst :
    State.reset.profile.wf = true
    ∧ exec (.encode .writeUpdate 2 0x8000) State.reset
      = .next (State.reset.pushReply ⟨.ok, .frame 0x328000 [0x32, 0x80, 0x00]⟩) := ⟨by decide, rfl⟩

theorem witness_PlainSettersCommitOrReport :
    State.reset.pend = false ∧ P0.cfgWF State.reset.cfg = true ∧ 4 < P0.nFilter ∧ P0.nFilter ≤ 5 ∧ 1 < P0.nPower
    ∧ P0.nPower ≤ 2 ∧ 10 < P0.nIdacMag ∧ P0.nIdacMag ≤ 11 ∧ 4 < P0.vrefs.length ∧ P0.vrefs.length ≤ 5
    ∧ 6 < P0.gains.length + 1 ∧ P0.gains.length + 1 ≤ 7 ∧ 7 < P0.nAdcCh ∧ P0.nAdcCh ≤ 8 := by decide

theorem witness_DataRateKeepsItsCore :
    State.reset.pend = false ∧ 15 < P0.drTable1.length ∧ P0.drTable1.length ≤ 16 ∧ 3 < P0.drTable2.length
    ∧ P0.drTable2.length ≤ 4 := by decide

theorem witness_SetIdacMuxKeepsTheImpliedRouting :
    (withMirror rtd1).pend = false ∧ P0.cfgWF rtd1 = true ∧ 11 < P0.nIdacMux ∧ P0.nIdacMux ≤ 12 ∧ rtd1.rtd ≠ 0
    ∧ P0.rtdRouting? rtd1.rtd = some 8 ∧ P0.rtdRouting? rtd1.rtd ≠ some 11 ∧ p0CfgReset.rtd = 0 := by decide

theorem witness_SetDiffExcludesSingleEndedRtd :
    (withMirror rtd1).pend = false ∧ P0.cfgWF rtd1 = true ∧ 4 ≤ P0.nDiff ∧ P0.nDiff < 5 ∧ rtd1.rtd ≠ 0
    ∧ P0.seOnly rtd1.rtd = true ∧ P0.seOnly 2 = false ∧ P0.cfgWF (cfgOf 1 4 0 4 1 0 0 9 0 4 2 1 0) = true := by decide

theorem witness_SetRtdWritesTheImpliedRouting :
    State.reset.profile.wf = true ∧ State.reset.pend = false ∧ P0.cfgWF State.reset.cfg = true
    ∧ P0.rtdWirings[0]? = some { seOnly := true, routing := 8 } ∧ State.reset.cfg.diff ≠ 0 ∧ rtd1.diff = 0
    ∧ P0.rtdWirings[1]? = some { seOnly := false, routing := 9 } ∧ P0.rtdWirings.length < 3 := by decide

theorem witness_SetIsAtomic :
    isSet (.setRtd 2) = true ∧ State.reset.pend = false ∧ P0.cfgWF State.reset.cfg = true := by decide

theorem witness_SetIsIdempotent : isSet (.setDiff 5) = true ∧ (running .continuous).pend = false := by decide

theorem witness_RenderEmitsEveryAxisInOrder : (withMirror rtd1).pend = false := by decide

theorem witness_ConfigurationIgnoresConversion :
    isEncoder (.comGain 0 4) = true ∧ isSet (.setPga 2) = true ∧ (.render : Instr) = .render := by decide

/-- Each of the four writers writes: a SET and a reset the mirror, a RENDER and a reset the device configuration. -/
theorem witness_WritersOfTheConfigurations :
    mirror (step (facing State.reset (.op (.word 0x1A00000000000002)))) ≠ some p0CfgReset
    ∧ mirror (step (facing (withMirror rtd1) .reset)) = some p0CfgReset
    ∧ (after (step (facing (withMirror rtd1) (.op (.word 0x0200000000000000))))).map (·.devCfg) = some rtd1
    ∧ (after (step (facing { State.reset with devCfg := rtd1 } .reset))).map (·.devCfg) = some p0CfgReset := by decide

theorem witness_StartBeginsOnlyFromIdle :
    State.reset.pend = false ∧ State.reset.conv = .idle ∧ (running .converting).pend = false
    ∧ (running .converting).conv ≠ .idle := by decide

theorem witness_StopAlwaysReachesIdle : (sampled .continuous goodSample).pend = false := by decide

theorem witness_ReadGuardsHoldsOrCompletes :
    State.reset.pend = false ∧ State.reset.conv = .idle
    ∧ ((running .continuous).pend = false ∧ (running .continuous).conv ≠ .idle ∧ (running .continuous).sv = false)
    ∧ ((sampled .converting goodSample).pend = false ∧ (sampled .converting goodSample).conv ≠ .idle
      ∧ (sampled .converting goodSample).sv = true ∧ (sampled .converting goodSample).raw = some goodSample
      ∧ (sampled .converting goodSample).acq = some p0CfgReset) := by decide

theorem witness_SampleReadyLatchesOrCompletes :
    (24 ∈ P0.resSet ∧ 0xFFFFFF < 2 ^ 24 ∧ 32 ∈ P0.resSet ∧ 0xFFFFFFFF < 2 ^ 32 ∧ 0xFF < 2 ^ P0.checkW)
    ∧ State.reset.conv = .idle ∧ ((running .continuous).conv ≠ .idle ∧ (running .continuous).pend = false)
    ∧ ((held .converting).conv ≠ .idle ∧ (held .converting).pend = true)
    ∧ (25 ∉ P0.resSet ∧ 2 ^ 24 ≤ 0x1000000 ∧ 2 ^ P0.checkW ≤ 0x100) := by decide

theorem witness_TimeoutOnlyEndsAHeldRead : (held .continuous).pend = true ∧ (running .continuous).pend = false := by decide

theorem witness_ContinuousLeftOnlyByStopOrReset :
    (running .continuous).conv = .continuous
    ∧ step (facing (running .continuous) (.op (.word 0x0400000000000000)))
      = .next (State.reset.pushReply ⟨.ok, .command [0x0A]⟩)
    ∧ step (facing (running .continuous) .reset) = .next State.reset
    ∧ State.reset.conv ≠ .continuous := ⟨rfl, rfl, rfl, by decide⟩

theorem witness_SingleShotIsReadOnce :
    State.reset.pend = false ∧ State.reset.conv = .idle ∧ sampleFits P0 goodSample = true := by decide

theorem witness_ConfigurationNeverRelabelsASample :
    (running .continuous).pend = false ∧ (running .continuous).conv ≠ .idle ∧ sampleFits P0 goodSample = true
    ∧ isSet (.setPga 6) = true ∧ (.render : Instr) = .render := by decide

/-- The two states differ in both configurations, the refusal flag and the ports. -/
theorem witness_ReadDependsOnTheLatchesAlone :
    let s := sampled .continuous badSample
    let s' : State := { s with cfg := rtd1, devCfg := rtd1, refused := true, inputs := [.reset], replies := [⟨.ok, .none⟩] }
    s.pend = false ∧ s'.pend = false ∧ s.profile = s'.profile ∧ s.conv = s'.conv ∧ s.sv = s'.sv ∧ s.raw = s'.raw
    ∧ s.acq = s'.acq
    ∧ exec .read s = .next ((running .continuous).pushReply ⟨.error .integrityCheckFailed, .none⟩) :=
  ⟨rfl, rfl, rfl, rfl, rfl, rfl, rfl, rfl⟩

/-- With a checksum that is wrong, with a CRC that is absent, and with the check off. -/
theorem witness_IntegrityCheckGuardsTheValue :
    (P0.cfgWF p0CfgReset = true ∧ p0CfgReset.errCheck = 1 ∧ P0.checkValue .checksum (bytesBe 0x7FFFFF 3) = 0x18)
    ∧ (P0.cfgWF (cfgOf 1 4 0 4 2 0 0 11 0 1 0 1 0) = true ∧ P0.checkValue .crc (bytesBe 0x7FFFFF 3) = 0x04)
    ∧ P0.cfgWF (cfgOf 1 4 0 4 0 0 0 11 0 1 0 1 0) = true := by decide +kernel

/-- With both extreme codes, 0x7FFFFF and 0x800000, whose checksums are 0x18 and 0x1B (95 section 2.6). -/
theorem witness_SignedScaling :
    P0.wf = true ∧ P0.cfgWF p0CfgReset = true ∧ sampleFits P0 goodSample = true
    ∧ integrityOk P0 goodSample p0CfgReset = true ∧ goodSample.code = 2 ^ (goodSample.bits - 1) - 1
    ∧ sampleFits P0 ⟨0x800000, 24, some 0x1B⟩ = true ∧ integrityOk P0 ⟨0x800000, 24, some 0x1B⟩ p0CfgReset = true
    ∧ 0x800000 = 2 ^ (24 - 1) ∧ p0CfgReset.diff ≠ 0 ∧ p0CfgReset.rtd = 0 := by decide

theorem witness_UnsignedScaling :
    P0.wf = true ∧ P0.cfgWF (cfgOf 1 4 0 4 0 0 0 11 0 0 0 1 0) = true ∧ sampleFits P0 ⟨0xFFFFFF, 24, none⟩ = true
    ∧ integrityOk P0 ⟨0xFFFFFF, 24, none⟩ (cfgOf 1 4 0 4 0 0 0 11 0 0 0 1 0) = true ∧ 0xFFFFFF = 2 ^ 24 - 1 := by decide

theorem witness_RtdGivesOhms :
    P0.wf = true ∧ P0.cfgWF rtd1 = true ∧ sampleFits P0 ⟨0x400000, 24, some 0xDB⟩ = true
    ∧ integrityOk P0 ⟨0x400000, 24, some 0xDB⟩ rtd1 = true ∧ rtd1.rtd ≠ 0 := by decide

theorem witness_WorkedDecodeExample :
    let cfg := cfgOf 1 4 0 4 0 0 0 11 0 1 0 1 0
    cfg.errCheck = 0 ∧ cfg.diff ≠ 0 ∧ cfg.rtd = 0 ∧ P0.gain cfg = 1 ∧ P0.vref cfg.refSrc = 5 / 2 := by decide +kernel

/-- One operation for each of the four ways to reply with an error. -/
theorem witness_ErrorsArePrecise :
    exec .read State.reset = .next (State.reset.pushReply ⟨.error .noConversionInProgress, .none⟩)
    ∧ exec .read (sampled .continuous badSample)
      = .next ((running .continuous).pushReply ⟨.error .integrityCheckFailed, .none⟩)
    ∧ exec .timeout (held .continuous) = .next ((running .continuous).pushReply ⟨.error .conversionTimeout, .none⟩)
    ∧ exec (.sampleReady 24 none 0) (held .converting)
      = .next (State.reset.pushReply ⟨.error .integrityCheckFailed, .none⟩) := ⟨rfl, rfl, rfl, rfl⟩

theorem witness_ErrorKindsByOperation :
    P0.cfgWF State.reset.cfg = true
    ∧ exec (.setRtd 1) State.reset
      = .next (State.reset.pushReply ⟨.error .incompatibleConfiguration, .setting .rtd 1⟩) := ⟨by decide, rfl⟩

theorem witness_HeldReadBlocksTheRequestPort :
    (held .converting).pend = true ∧ portOf (.comWrite 0 0) = .request ∧ (held .converting).conv ≠ .idle
    ∧ sampleFits P0 goodSample = true ∧ (facing (held .converting) .reset).inputs = [.reset]
    ∧ (facing (held .converting) .reset).profile.wf = true := by decide

theorem witness_OneReplyPerRequest :
    portOf .read = .request ∧ (running .continuous).pend = false
    ∧ exec .read (running .continuous) = .next (held .continuous)
    ∧ exec .stop (running .continuous) = .next (State.reset.pushReply ⟨.ok, .command [0x0A]⟩) := ⟨rfl, rfl, rfl, rfl⟩

theorem witness_HeldReadEndsByEventOrReset :
    (held .continuous).pend = true
    ∧ step (facing (held .continuous) .reset) = .next State.reset
    ∧ step (facing (held .continuous) (.op (.word 0x2100000000000000)))
      = .next ((running .continuous).pushReply ⟨.error .conversionTimeout, .none⟩)
    ∧ State.reset.pend = false ∧ (running .continuous).pend = false := ⟨rfl, rfl, rfl, rfl, rfl⟩

theorem witness_ResetInputRestoresTheResetState :
    (facing (held .converting) .reset).profile.wf = true ∧ (facing (held .converting) .reset).inputs = [.reset] := by decide

theorem witness_ResetStateIsGood : P0.wf = true := by decide

/-- A good state that is not the reset state: a sample is latched. -/
theorem sampled_inv : Inv (sampled .continuous goodSample) where
  profile := by decide
  cfg := by decide
  devCfg := by decide
  latches := ⟨rfl, rfl⟩
  raw := by intro r h; cases h; decide
  acq := by intro c h; cases h; decide
  idle := by intro h; cases h
  pending := by intro h; cases h

theorem witness_StepKeepsInv :
    Inv (facing (sampled .continuous goodSample) (.op (.word 0x0400000000000000)))
    ∧ step (facing (sampled .continuous goodSample) (.op (.word 0x0400000000000000)))
      = .next (State.reset.pushReply ⟨.ok, .command [0x0A]⟩) :=
  ⟨⟨sampled_inv.profile, sampled_inv.cfg, sampled_inv.devCfg, sampled_inv.latches, sampled_inv.raw, sampled_inv.acq,
    sampled_inv.idle, sampled_inv.pending⟩, rfl⟩

theorem witness_GoodStatesAlwaysStep : Inv (sampled .continuous goodSample) := sampled_inv

theorem witness_EveryRunStaysGood : P0.wf = true := by decide

end Sys2Proof.Tests
end

/-! PROOFS of the scope family (00_scope.md): every state update keeps the invariant under the premises R201 gives it,
so a good state always steps to a good state; a step takes one input and gives one reply at most; and a step is refused
exactly under a Profile that breaks R10. -/

namespace Sys2Proof.Safety

open Sys2Proof.Machine Sys2Proof.Laws

/-! The invariant under each update of the state. -/

section

variable {s : State} (hs : Inv s)

include hs

theorem Inv.pushReply (r : Reply) : Inv (s.pushReply r) := { hs with }

theorem Inv.withRefused : Inv s.withRefused := { hs with }

theorem Inv.withInputs (is : List Input) : Inv (s.withInputs is) := { hs with }

theorem Inv.withCfg {c : AdcConfig} (hc : s.profile.cfgWF c = true) : Inv (s.withCfg c) := { hs with cfg := hc }

theorem Inv.withDevCfg {c : AdcConfig} (hc : s.profile.cfgWF c = true) : Inv (s.withDevCfg c) :=
  { hs with devCfg := hc }

theorem Inv.clearSample : Inv s.clearSample :=
  { hs with
    latches := ⟨rfl, rfl⟩
    raw := by simp
    acq := by simp
    idle := fun h => ⟨rfl, (hs.idle h).2⟩
    pending := fun _ => rfl }

/-- Only a conversion without a sample and without a held READ may end in IDLE (R201). -/
theorem Inv.withConv {c : ConvState} (hc : c = .idle → s.sv = false ∧ s.pend = false) : Inv (s.withConv c) :=
  { hs with idle := hc }

/-- A READ is held only while a conversion runs that has no sample yet (R201). -/
theorem Inv.withPend_true (hc : s.conv ≠ .idle) (hv : s.sv = false) : Inv (s.withPend true) :=
  { hs with
    idle := fun h => absurd h hc
    pending := fun _ => hv }

theorem Inv.withPend_false : Inv (s.withPend false) :=
  { hs with
    idle := fun h => ⟨(hs.idle h).1, rfl⟩
    pending := by simp }

/-- A sample is latched only while a conversion runs and no READ is held, with the snapshot of `S.DEV_CFG` (R208). -/
theorem Inv.latchSample {r : RawSample} (hr : sampleFits s.profile r = true) (hc : s.conv ≠ .idle)
    (hp : s.pend = false) : Inv (s.latchSample r) :=
  { hs with
    latches := ⟨rfl, rfl⟩
    raw := by rintro _ ⟨⟩; exact hr
    acq := by rintro _ ⟨⟩; exact hs.devCfg
    idle := fun h => absurd h hc
    pending := fun h => by simp [hp] at h }

/-- A completed READ consumes the sample; with none held, the conversion may end (R205). -/
theorem Inv.clearSample_withConv_afterRead (hp : s.pend = false) : Inv (s.clearSample.withConv s.conv.afterRead) :=
  hs.clearSample.withConv fun _ => ⟨rfl, hp⟩

/-- A sample that is held is in both latches, so the model's fault is out of reach (R29, R30). -/
theorem Inv.latches_of_sv (hv : s.sv = true) : ∃ r c, s.raw = some r ∧ s.acq = some c := by
  obtain ⟨hraw, hacq⟩ := hs.latches
  rw [hv] at hraw hacq
  obtain ⟨r, hr⟩ := Option.isSome_iff_exists.1 hraw
  obtain ⟨c, hc⟩ := Option.isSome_iff_exists.1 hacq
  exact ⟨r, c, hr, hc⟩

/-- A READ in a good state that holds a sample completes, and leaves a good state (R205). -/
theorem Inv.completeRead_next (hv : s.sv = true) (hp : s.pend = false) :
    ∃ t, completeRead s = .next t ∧ Inv t := by
  obtain ⟨r, c, hr, hc⟩ := hs.latches_of_sv hv
  exact ⟨_, completeRead_eq hr hc, (hs.clearSample_withConv_afterRead hp).pushReply _⟩

end

/-- The reset configuration of a well-formed Profile meets WF (R10, R25). -/
theorem cfgWF_cfgReset {P : Profile} (hP : P.wf = true) : P.cfgWF P.cfgReset = true := by
  obtain ⟨-, -, -, -, -, -, -, -, -, -, -, -, -, -, -, hcfg, -, -⟩ := (profile_wf_iff P).1 hP
  exact hcfg

/-- Power-on under a well-formed Profile gives a good state (R34). -/
theorem inv_powerOn {P : Profile} (hP : P.wf = true) : Inv (State.powerOn P) where
  profile := hP
  cfg := cfgWF_cfgReset hP
  devCfg := cfgWF_cfgReset hP
  latches := ⟨rfl, rfl⟩
  raw _ h := by cases h
  acq _ h := by cases h
  idle _ := ⟨rfl, rfl⟩
  pending _ := rfl

/-- The reset input leads to a good state from every state of a well-formed Profile (R320). -/
theorem inv_applyReset {s : State} (hP : s.profile.wf = true) : Inv (applyReset s) := { inv_powerOn hP with }

end Sys2Proof.Safety

namespace Sys2Proof.Laws

open Sys2Proof.Machine Sys2Proof.Safety

/-- From a good state every effect of an instruction is a next state, and a good one. -/
theorem effect_next_inv {i : Instr} {s : State} {o : StepResult} (he : Effect i s o) (hs : Inv s) :
    ∃ t, o = .next t ∧ Inv t := by
  cases he with
  | blocked | misfit => exact ⟨_, rfl, hs.withRefused⟩
  | encoded | setFailed | startFailed | readIdle => exact ⟨_, rfl, hs.pushReply _⟩
  | committed cfg _ _ hcfg => exact ⟨_, rfl, (hs.withCfg (hcfg hs.cfg)).pushReply _⟩
  | rendered => exact ⟨_, rfl, (hs.withDevCfg hs.cfg).pushReply _⟩
  | started m _ hidle => exact ⟨_, rfl, (hs.withConv fun _ => hs.idle hidle).clearSample.pushReply _⟩
  | stopped hp => exact ⟨_, rfl, (hs.clearSample.withConv fun _ => ⟨rfl, hp⟩).pushReply _⟩
  | readHeld _ hrun hsv => exact ⟨_, rfl, hs.withPend_true hrun hsv⟩
  | readDone hp _ hsv => exact hs.completeRead_next hsv hp
  | dropped | ignored => exact ⟨_, rfl, hs⟩
  | latched hfit hrun hp => exact ⟨_, rfl, hs.latchSample hfit hrun hp⟩
  | completed => exact ⟨_, rfl, (hs.withPend_false.clearSample_withConv_afterRead rfl).pushReply _⟩
  | timedOut => exact ⟨_, rfl, hs.withPend_false.pushReply _⟩

/-- Settles O53: by the next input, and for an operation by its effect. -/
theorem goodStatesAlwaysStep : Obligations.GoodStatesAlwaysStep := by
  unfold Obligations.GoodStatesAlwaysStep
  intro s hs
  obtain ⟨_, e⟩ | ⟨rest, _, e⟩ | ⟨_, rest, i, _, _, e⟩ | ⟨_, rest, _, _, _, e⟩ := step_cases hs.profile <;> rw [e]
  · exact ⟨_, rfl, hs⟩
  · exact ⟨_, rfl, inv_applyReset hs.profile⟩
  · exact effect_next_inv (exec_effect i _) (hs.withInputs rest)
  · exact ⟨_, rfl, (hs.withInputs rest).withRefused⟩

/-! What a step leaves of the Profile and the ports. -/

/-- From `s` to `t` the Profile and the inputs still to arrive are kept, and at most one reply is added at the end. -/
def KeepsPorts (s t : State) : Prop :=
  t.profile = s.profile ∧ t.inputs = s.inputs ∧ (t.replies = s.replies ∨ ∃ r, t.replies = s.replies ++ [r])

/-- An instruction that answers a next state keeps the Profile and the inputs, and replies at most once (R67, R87). -/
theorem effect_keepsPorts {i : Instr} {s t : State} {o : StepResult} (he : Effect i s o) (h : o = .next t) :
    KeepsPorts s t := by
  cases he with
  | readDone =>
    obtain ⟨r, rfl, _⟩ := completeRead_next h
    exact ⟨rfl, rfl, .inr ⟨r, rfl⟩⟩
  | blocked | misfit | readHeld | dropped | latched | ignored =>
    cases h
    exact ⟨rfl, rfl, .inl rfl⟩
  | encoded | committed | setFailed | rendered | started | startFailed | stopped | readIdle | completed | timedOut =>
    cases h
    exact ⟨rfl, rfl, .inr ⟨_, rfl⟩⟩

/-- Only a well-formed Profile lets the core step (R10). -/
theorem step_of_not_wf {s : State} (h : s.profile.wf = false) : step s = .refused .profileNotWellFormed := by
  simp [step, h]

theorem wf_of_step_next {s t : State} (h : step s = .next t) : s.profile.wf = true := by
  by_contra hP
  rw [step_of_not_wf (by simpa using hP)] at h
  cases h

/-- Settles O11: by the next input, and for an operation by its effect. -/
theorem stepTakesOneInput : Obligations.StepTakesOneInput := by
  unfold Obligations.StepTakesOneInput
  intro s t h
  obtain ⟨hin, e⟩ | ⟨rest, hin, e⟩ | ⟨_, rest, i, hin, _, e⟩ | ⟨_, rest, _, hin, _, e⟩ :=
    step_cases (wf_of_step_next h) <;> rw [e] at h
  · cases h
    exact ⟨rfl, by simp [hin], .inl rfl⟩
  · cases h
    exact ⟨rfl, by simp [hin], .inl rfl⟩
  · rw [hin]
    exact effect_keepsPorts (exec_effect i (s.withInputs rest)) h
  · cases h
    exact ⟨rfl, by simp [hin], .inl rfl⟩

/-! The refusal of an ill-formed Profile. -/

/-- Every operation of the core has a meaning: `exec` never answers a refusal. -/
theorem exec_ne_refused (i : Instr) (s : State) (r : Refusal) : exec i s ≠ .refused r := by
  obtain ⟨t, e⟩ | ⟨e, _⟩ := exec_next_or_fault i s <;> simp [e]

/-- Under a well-formed Profile no step is refused. -/
theorem step_ne_refused {s : State} (h : s.profile.wf = true) (r : Refusal) : step s ≠ .refused r := by
  obtain ⟨_, e⟩ | ⟨_, _, e⟩ | ⟨_, rest, i, _, _, e⟩ | ⟨_, _, _, _, _, e⟩ := step_cases h <;> rw [e]
  · simp
  · simp
  · exact exec_ne_refused i _ r
  · simp

theorem step_refused_iff (s : State) : step s = .refused .profileNotWellFormed ↔ s.profile.wf = false :=
  ⟨fun h => by
    by_contra hP
    exact step_ne_refused (by simpa using hP) _ h,
   step_of_not_wf⟩

/-- R10's condition on CODE: injective, and every code fits the command field. -/
theorem codesOk_iff (P : Profile) :
    P.codesOk = true ↔ (∀ c d, P.code c = P.code d → c = d) ∧ ∀ c, P.code c < 2 ^ P.cmdW := by
  simp only [Profile.codesOk, List.all_eq_true, Bool.and_eq_true, Bool.or_eq_true, decide_eq_true_eq]
  constructor
  · intro h
    exact ⟨fun c d e => ((h c (mem_allCommands c)).2 d (mem_allCommands d)).resolve_right (absurd e),
      fun c => (h c (mem_allCommands c)).1⟩
  · rintro ⟨hinj, hlt⟩ c -
    exact ⟨hlt c, fun d _ => or_iff_not_imp_right.2 fun n => hinj c d (not_not.1 n)⟩

/-- R10's check of a reference voltage says that the voltage is positive. -/
theorem positive_iff (v : RefVoltage) : v.positive = true ↔ 0 < v.volts := by
  refine ⟨volts_pos, fun h => ?_⟩
  cases v with
  | known q => simpa [RefVoltage.positive, RefVoltage.volts, Rat.num_pos] using h
  | openSource r => rfl

/-- Settles O55: the refusal by the cases of the step, the conditions of R10 by those of `Profile.wf`. -/
theorem illFormedProfileIsRefused : Obligations.IllFormedProfileIsRefused := by
  unfold Obligations.IllFormedProfileIsRefused
  refine fun s => ⟨step_refused_iff s, ?_⟩
  simp only [profile_wf_iff, codesOk_iff, positive_iff, Profile.frameW, and_assoc]

end Sys2Proof.Laws

/-! PROOFS of the state family (10_state.md): the configuration invariant over its axes, who may write each field of the
state, that a held sample keeps the configuration it was taken under, and that every run from power-on stays good. -/

namespace Sys2Proof.Laws

open Sys2Proof.Machine Sys2Proof.Safety

/-- Settles O52: a step has one outcome, and a good state has a good one. -/
theorem stepKeepsInv : Obligations.StepKeepsInv := by
  unfold Obligations.StepKeepsInv
  intro s t hs h
  obtain ⟨t', h', ht'⟩ := goodStatesAlwaysStep s hs
  cases h.symm.trans h'
  exact ht'

/-! The outcome of a step, by its next input. -/

theorem nextInstr_of_op {s : State} {sp : Spelling} {rest : List Input} {i : Instr} (hin : s.inputs = .op sp :: rest)
    (hd : decode s.profile sp = .instr i) : nextInstr s = some i := by
  simp [nextInstr, hin, hd]

theorem resetIsNext_of_reset {s : State} {rest : List Input} (hin : s.inputs = .reset :: rest) :
    resetIsNext s = true := by
  simp [resetIsNext, hin]

/-- A step that answers `t` found no input, the reset input, an operation that answers `t`, or a spelling that names no
operation. -/
theorem step_next_cases {s t : State} (h : step s = .next t) :
    t = s
    ∨ (resetIsNext s = true ∧ t = applyReset (s.withInputs s.inputs.tail))
    ∨ (∃ i, nextInstr s = some i ∧ exec i (s.withInputs s.inputs.tail) = .next t)
    ∨ t = (s.withInputs s.inputs.tail).withRefused := by
  obtain ⟨_, e⟩ | ⟨rest, hin, e⟩ | ⟨_, rest, i, hin, hd, e⟩ | ⟨_, rest, _, hin, _, e⟩ :=
    step_cases (wf_of_step_next h) <;> rw [e] at h
  · cases h
    exact .inl rfl
  · cases h
    exact .inr (.inl ⟨resetIsNext_of_reset hin, by rw [hin, List.tail_cons]⟩)
  · refine .inr (.inr (.inl ⟨i, nextInstr_of_op hin hd, ?_⟩))
    rwa [hin, List.tail_cons]
  · cases h
    exact .inr (.inr (.inr (by rw [hin, List.tail_cons])))

/-- Under a well-formed Profile an operation that is spelled next runs, on the state without its input (R21). -/
theorem step_of_instr {s : State} {sp : Spelling} {rest : List Input} {i : Instr} (hP : s.profile.wf = true)
    (hin : s.inputs = .op sp :: rest) (hd : decode s.profile sp = .instr i) :
    step s = exec i (s.withInputs rest) := by
  simp [step, hP, takeInput, hin, hd]

/-! Who writes the refusal flag and the two configurations. -/

/-- From `s` to `t` the instruction `i` has not cleared `S.REFUSED` (R32), and has written `S.CFG` only as a SET (R24)
and `S.DEV_CFG` only as RENDER (R26). -/
structure WritesOwnFields (i : Instr) (s t : State) : Prop where
  refused : s.refused = true → t.refused = true
  cfg     : t.cfg ≠ s.cfg → isSet i = true
  devCfg  : t.devCfg ≠ s.devCfg → i = .render

theorem effect_writesOwnFields {i : Instr} {s t : State} {o : StepResult} (he : Effect i s o) (h : o = .next t) :
    WritesOwnFields i s t := by
  cases he with
  | blocked | misfit =>
    cases h
    exact ⟨fun _ => rfl, absurd rfl, absurd rfl⟩
  | committed _ hset =>
    cases h
    exact ⟨id, fun _ => hset, absurd rfl⟩
  | rendered =>
    cases h
    exact ⟨id, absurd rfl, fun _ => rfl⟩
  | readDone =>
    obtain ⟨_, rfl, _⟩ := completeRead_next h
    exact ⟨id, absurd rfl, absurd rfl⟩
  | encoded | setFailed | started | startFailed | stopped | readIdle | readHeld | dropped | latched | completed
  | timedOut | ignored =>
    cases h
    exact ⟨id, absurd rfl, absurd rfl⟩

theorem exec_writesOwnFields {i : Instr} {s t : State} (h : exec i s = .next t) : WritesOwnFields i s t :=
  effect_writesOwnFields (exec_effect i s) h

/-- Settles O10: by the next input; the reset input keeps the flag, and so does every instruction. -/
theorem refusedIsNeverCleared : Obligations.RefusedIsNeverCleared := by
  unfold Obligations.RefusedIsNeverCleared
  intro s t h hs
  obtain rfl | ⟨_, rfl⟩ | ⟨i, _, e⟩ | rfl := step_next_cases h
  · exact hs
  · exact hs
  · exact (exec_writesOwnFields e).refused hs
  · rfl

/-- Settles O29: by the next input; a refused spelling writes neither configuration, and an instruction only its own. -/
theorem writersOfTheConfigurations : Obligations.WritersOfTheConfigurations := by
  unfold Obligations.WritersOfTheConfigurations
  intro s t h
  obtain rfl | ⟨hreset, _⟩ | ⟨i, hi, e⟩ | rfl := step_next_cases h
  · exact ⟨absurd rfl, absurd rfl⟩
  · exact ⟨fun _ => .inl hreset, fun _ => .inl hreset⟩
  · obtain ⟨_, hcfg, hdev⟩ := exec_writesOwnFields e
    exact ⟨fun hne => .inr ⟨i, hi, hcfg hne⟩, fun hne => .inr (hdev hne ▸ hi)⟩
  · exact ⟨absurd rfl, absurd rfl⟩

/-! A sample is read under the configuration it was taken with. -/

/-- From `s` to `t` the parameters and everything a READ looks at are kept: `S.CONV`, `S.SV`, the latches and
`S.PEND` (R206, R250). -/
structure KeepsConversion (s t : State) : Prop where
  profile : t.profile = s.profile
  conv    : t.conv = s.conv
  sv      : t.sv = s.sv
  raw     : t.raw = s.raw
  acq     : t.acq = s.acq
  pend    : t.pend = s.pend

theorem KeepsConversion.trans {s t u : State} (h : KeepsConversion s t) (h' : KeepsConversion t u) :
    KeepsConversion s u where
  profile := h'.profile.trans h.profile
  conv := h'.conv.trans h.conv
  sv := h'.sv.trans h.sv
  raw := h'.raw.trans h.raw
  acq := h'.acq.trans h.acq
  pend := h'.pend.trans h.pend

/-- ENCODE, the SETs and RENDER keep the conversion (R211): the other instructions are none of these. -/
theorem effect_keepsConversion {i : Instr} {s : State} {o : StepResult} (he : Effect i s o)
    (hi : isEncoder i = true ∨ isSet i = true ∨ i = .render) : ∃ t, o = .next t ∧ KeepsConversion s t := by
  cases he with
  | blocked | encoded | committed | setFailed | rendered => exact ⟨_, rfl, rfl, rfl, rfl, rfl, rfl, rfl⟩
  | misfit | started | startFailed | stopped | readIdle | readHeld | readDone | dropped | latched | completed
  | timedOut | ignored => simp [isEncoder, isSet] at hi

theorem exec_keepsConversion {i : Instr} (s : State) (hi : isEncoder i = true ∨ isSet i = true ∨ i = .render) :
    ∃ t, exec i s = .next t ∧ KeepsConversion s t :=
  effect_keepsConversion (exec_effect i s) hi

/-- A fitting sample is latched while a conversion runs and no READ is held (R208). -/
theorem exec_sampleReady_latches {s : State} {b k : Nat} {c : Option Nat} (hfit : sampleFits s.profile ⟨k, b, c⟩ = true)
    (hrun : s.conv ≠ .idle) (hp : s.pend = false) :
    exec (.sampleReady b c k) s = .next (s.latchSample ⟨k, b, c⟩) := by
  simp [exec, execSampleReady, hfit, hrun, hp]

/-- READ of a latched sample replies with its decoding under the snapshot (R205, R206). -/
theorem exec_read_latched {s : State} {r : RawSample} {c : AdcConfig} (hrun : s.conv ≠ .idle) (hp : s.pend = false)
    (hv : s.sv = true) (hr : s.raw = some r) (hc : s.acq = some c) :
    exec .read s = .next ((s.clearSample.withConv s.conv.afterRead).pushReply (readReply s.profile r c)) := by
  simp [exec, execRead, onRequestPort_open hp, readOp, hrun, hv, completeRead_eq hr hc]

/-- READ after a sample and anything that keeps the conversion decodes that sample under the `S.DEV_CFG` it was
delivered under (R30). -/
theorem exec_read_of_keepsConversion {s v : State} {r : RawSample} (hrun : s.conv ≠ .idle) (hp : s.pend = false)
    (h : KeepsConversion (s.latchSample r) v) :
    exec .read v
      = .next ((v.clearSample.withConv v.conv.afterRead).pushReply (readReply s.profile r s.devCfg)) := by
  have hP : v.profile = s.profile := h.profile
  rw [exec_read_latched (by rw [h.conv]; exact hrun) (h.pend.trans hp) h.sv h.raw h.acq, hP]

/-- Settles O37: neither of the two operations touches the latches, and READ decodes what they hold. -/
theorem configurationNeverRelabelsASample : Obligations.ConfigurationNeverRelabelsASample := by
  unfold Obligations.ConfigurationNeverRelabelsASample
  intro s b k c i j hp hrun hfit hi hj
  obtain ⟨u, hu, hsu⟩ := exec_keepsConversion (s.latchSample ⟨k, b, c⟩) (.inr hi)
  obtain ⟨v, hv, huv⟩ := exec_keepsConversion u (.inr hj)
  exact ⟨_, u, v, _, exec_sampleReady_latches hfit hrun hp, hu, hv,
    exec_read_of_keepsConversion hrun hp (hsu.trans huv), rfl⟩

/-! Runs. -/

theorem run_succ_of_step_next {M : Host.Core} {s t : M.State} (h : M.step s = .next t) (n : Nat) :
    M.run (n + 1) s = M.run n t := by
  simp [Host.Core.run, h]

/-- From a good state every run goes on, to a good state. -/
theorem run_next_inv (n : Nat) {s : State} (hs : Inv s) : ∃ t, core.run n s = .next t ∧ Inv t := by
  induction n generalizing s with
  | zero => exact ⟨s, rfl, hs⟩
  | succ n ih =>
    obtain ⟨t, h, ht⟩ := goodStatesAlwaysStep s hs
    rw [run_succ_of_step_next (M := core) h]
    exact ih ht

/-- Settles O54: power-on is a good state whatever the inputs to come, and a run from a good state stays good. -/
theorem everyRunStaysGood : Obligations.EveryRunStaysGood := by
  unfold Obligations.EveryRunStaysGood
  intro P is n hP
  exact run_next_inv n ((inv_powerOn hP).withInputs is)

/-! The configuration invariant, axis by axis. -/

theorem forall_axis_iff {p : Axis → Prop} :
    (∀ X, p X) ↔ p .convMode ∧ p .dataRate1 ∧ p .dataRate2 ∧ p .filter ∧ p .errCheck ∧ p .power ∧ p .idacMag
      ∧ p .idacMux ∧ p .refSrc ∧ p .diff ∧ p .rtd ∧ p .pga ∧ p .adcCh := by
  constructor
  · intro h
    exact ⟨h _, h _, h _, h _, h _, h _, h _, h _, h _, h _, h _, h _, h _⟩
  · rintro ⟨_, _, _, _, _, _, _, _, _, _, _, _, _⟩ X
    cases X <;> assumption

/-- R23, axis by axis: every value code is in its domain. -/
theorem inDomains_iff (P : Profile) (cfg : AdcConfig) :
    (∀ X, cfg.get X < P.domainSize X) ↔
      cfg.convMode < 2 ∧ cfg.dataRate1 < P.drTable1.length ∧ cfg.dataRate2 < P.drTable2.length
      ∧ cfg.filter < P.nFilter ∧ cfg.errCheck < 3 ∧ cfg.power < P.nPower ∧ cfg.idacMag < P.nIdacMag
      ∧ cfg.idacMux < P.nIdacMux ∧ cfg.refSrc < P.vrefs.length ∧ cfg.diff ≤ P.nDiff
      ∧ cfg.rtd ≤ P.rtdWirings.length ∧ cfg.pga ≤ P.gains.length ∧ cfg.adcCh < P.nAdcCh := by
  simp only [forall_axis_iff, AdcConfig.get, Profile.domainSize, Nat.lt_succ_iff]

theorem seOnly_succ {P : Profile} {k : Nat} {w : RtdWiring} (hw : P.rtdWirings[k]? = some w) :
    P.seOnly (k + 1) = w.seOnly := by
  simp [Profile.seOnly, Profile.rtdWiring?, hw]

theorem rtdRouting?_succ {P : Profile} {k : Nat} {w : RtdWiring} (hw : P.rtdWirings[k]? = some w) :
    P.rtdRouting? (k + 1) = some w.routing := by
  simp [Profile.rtdRouting?, Profile.rtdWiring?, hw]

/-- R25's two interactions, over the wiring that is on: with OFF both say nothing. -/
theorem interactions_iff {P : Profile} {cfg : AdcConfig} (hrtd : cfg.rtd ≤ P.rtdWirings.length) :
    (¬ (cfg.diff ≠ 0 ∧ cfg.rtd ≠ 0 ∧ P.seOnly cfg.rtd = true)
      ∧ (cfg.rtd ≠ 0 → P.rtdRouting? cfg.rtd = some cfg.idacMux)) ↔
    ∀ k w, cfg.rtd = k + 1 → P.rtdWirings[k]? = some w →
      ¬ (cfg.diff ≠ 0 ∧ w.seOnly = true) ∧ cfg.idacMux = w.routing := by
  cases e : cfg.rtd with
  | zero => simp
  | succ k =>
    obtain ⟨w, hw⟩ : ∃ w, P.rtdWirings[k]? = some w := ⟨_, List.getElem?_eq_getElem (by omega)⟩
    rw [seOnly_succ hw, rtdRouting?_succ hw]
    constructor
    · rintro ⟨hclash, hrouting⟩ _ w' ⟨⟩ hw'
      cases hw.symm.trans hw'
      exact ⟨fun ⟨hd, hse⟩ => hclash ⟨hd, k.succ_ne_zero, hse⟩, (Option.some.inj (hrouting k.succ_ne_zero)).symm⟩
    · intro h
      obtain ⟨hclash, hrouting⟩ := h k w rfl hw
      exact ⟨fun ⟨hd, _, hse⟩ => hclash ⟨hd, hse⟩, fun _ => congrArg some hrouting.symm⟩

/-- Settles O56: the domains axis by axis, then the interactions of a wiring in its domain. -/
theorem configurationInvariantSpelledOut : Obligations.ConfigurationInvariantSpelledOut := by
  unfold Obligations.ConfigurationInvariantSpelledOut
  intro P cfg
  have hint (h : ∀ X, cfg.get X < P.domainSize X) := interactions_iff (Nat.lt_succ_iff.1 (h .rtd))
  rw [cfgWF_iff, and_congr_right hint, inDomains_iff]
  simp only [and_assoc]

/-! The step and the reset state. -/

/-- Settles O7: the second half is the first, on the state with the row presented. -/
theorem stepRunsTheDecodedInstruction : Obligations.StepRunsTheDecodedInstruction := by
  unfold Obligations.StepRunsTheDecodedInstruction
  constructor
  · intro s sp rest i hP hin hd
    exact step_of_instr hP hin hd
  · intro s nbits w i hP hd
    exact step_of_instr (s := s.withFetchWord nbits w) hP rfl hd

/-- Settles O51: power-on under a well-formed Profile is a good state, and P0 is well-formed. -/
theorem resetStateIsGood : Obligations.ResetStateIsGood := by
  unfold Obligations.ResetStateIsGood
  constructor
  · intro P hP
    exact ⟨inv_powerOn hP, rfl, rfl, rfl, rfl, rfl, rfl, rfl, rfl⟩
  · exact ⟨rfl, inv_powerOn p0_wf⟩

end Sys2Proof.Laws

/-! PROOFS of the memory family (20_memory.md): a frame that ENCODE replies with fits the frame's width, so its
FRAME_W / 8 bytes lose none of its bits. -/

namespace Sys2Proof.Laws

open Sys2Proof.Machine

/-! The frame fits FRAME_W. -/

/-- COM_SW_RESET is the one command whose address is not checked (R111, R115). -/
theorem addressClass_eq_reset_iff (c : CommandCode) : addressClass c = .reset ↔ c = .swReset := by
  cases c <;> decide

/-- An address that ENCODE accepts fits the address field, in every class that has one (R10, R112). -/
theorem addrOk_lt {P : Profile} (hP : P.wf = true) {c : CommandCode} (hc : c ≠ .swReset) {a : Nat}
    (h : addrOk P c a = true) : a < 2 ^ P.addrW := by
  obtain ⟨-, -, -, -, -, hch, hall, -⟩ := (profile_wf_iff P).1 hP
  unfold addrOk at h
  split at h
  next => exact (of_decide_eq_true h).trans_le hch
  next => exact of_decide_eq_true h ▸ hall
  next => exact of_decide_eq_true h
  next hclass => exact absurd ((addressClass_eq_reset_iff c).1 hclass) hc

theorem resetWord_lt {P : Profile} (hP : P.wf = true) : resetWord P < 2 ^ P.frameW := by
  obtain ⟨-, -, -, -, -, -, -, hdata, -⟩ := (profile_wf_iff P).1 hP
  exact pack_lt (code_lt hP .swReset) (Nat.two_pow_pos _) hdata

/-! What ENCODE replies. -/

@[simp] theorem pushReply_inj {s : State} {r r' : Reply} : s.pushReply r = s.pushReply r' ↔ r = r' := by
  simp [pushReply_eq]

/-- Whatever its operands, ENCODE gives one reply and changes nothing else (R110). -/
theorem encodeOp_pushReply (c : CommandCode) (a d : Nat) (s : State) :
    ∃ r, encodeOp c a d s = .next (s.pushReply r) := by
  obtain ⟨_, e⟩ | ⟨_, _, e⟩ | ⟨_, _, _, e⟩ | ⟨_, _, _, e⟩ := encodeOp_cases c a d s <;> exact ⟨_, e⟩

/-- An OK reply of ENCODE is a frame that fits FRAME_W, with its bytes (R62, R110). -/
theorem encodeOp_ok {s : State} (hP : s.profile.wf = true) {c : CommandCode} {a d : Nat} {p : Payload}
    (h : encodeOp c a d s = .next (s.pushReply ⟨.ok, p⟩)) :
    ∃ f < 2 ^ s.profile.frameW, p = .frame f (bytesBe f s.profile.frameBytes) := by
  obtain ⟨_, e⟩ | ⟨_, _, e⟩ | ⟨_, _, _, e⟩ | ⟨hc, ha, hd, e⟩ := encodeOp_cases c a d s <;>
    rw [e, Host.Outcome.next.injEq, pushReply_inj] at h <;> cases h
  · exact ⟨_, resetWord_lt hP, rfl⟩
  · exact ⟨_, pack_lt (code_lt hP c) (addrOk_lt hP hc ha) hd, rfl⟩

/-- A call of ENCODE that adds a reply was not blocked by a held READ, and changed nothing else (R110, R292). -/
theorem encodeOp_of_exec_encode {s t : State} {c : CommandCode} {a d : Nat} {r : Reply}
    (h : exec (.encode c a d) s = .next t) (hr : t.replies = s.replies ++ [r]) :
    encodeOp c a d s = .next (s.pushReply r) := by
  change onRequestPort (encodeOp c a d) s = .next t at h
  cases hp : s.pend with
  | true =>
    rw [onRequestPort_blocked hp] at h
    cases h
    simp at hr
  | false =>
    obtain ⟨r', e⟩ := encodeOp_pushReply c a d s
    rw [onRequestPort_open hp, e] at h
    cases h
    obtain rfl : r' = r := by simpa using hr
    exact e

/-- Settles O19: the reply's bytes are `bytes_be` of a frame that fits them, and so read back as the frame. -/
theorem frameBytesMostSignificantFirst : Obligations.FrameBytesMostSignificantFirst := by
  unfold Obligations.FrameBytesMostSignificantFirst
  intro s t c a d f bs hP h hr
  obtain ⟨_, hf, ⟨⟩⟩ := encodeOp_ok hP (encodeOp_of_exec_encode h hr)
  rw [bytesBe_length]
  exact ⟨frameBytes_mul hP, natBe_bytesBe (frame_fits hP hf), fun _ hk => bytesBe_getElem? hk⟩

end Sys2Proof.Laws

/-! PROOFS of the encoding family (30_encoding.md): the record of R85 and its decoder determine each other, and so do a
DAC frame and its row; the request word and the record form inherit both directions. The refusals of R89 are the records
the decoder rejects, the samples that do not fit the Profile, and the requests a held READ blocks. -/

namespace Sys2Proof.Laws

open Sys2Proof.Machine Sys2Proof.Safety

/-! Operands that are members of a closed enumeration (R81, R85). -/

theorem commandOfOrdinal_eq_some_iff {n : Nat} {c : CommandCode} : commandOfOrdinal n = some c ↔ n = c.ordinal := by
  have hc : commandOfOrdinal c.ordinal = some c := by cases c <;> rfl
  have hlt : c.ordinal < allCommands.length := by cases c <;> decide
  constructor
  · intro h
    exact ((List.getElem?_inj hlt (by decide)).1 (hc.trans h.symm)).symm
  · rintro rfl
    exact hc

theorem modeOf_eq_some_iff {n : Nat} {m : ConvMode} : modeOf n = some m ↔ n = m.number := by
  unfold modeOf
  split <;> cases m <;> simp_all [ConvMode.number]

theorem coreOf_eq_some_iff {n : Nat} {c : ConverterCore} : coreOf n = some c ↔ n = c.number := by
  unfold coreOf
  split <;> cases c <;> simp_all [ConverterCore.number]

theorem checkOf_eq_some_iff {n a : Nat} {c : Option Nat} :
    checkOf n a = some c ↔ a = checkField n c ∧ ∀ x, c = some x → x < 2 ^ n := by
  constructor
  · intro h
    exact ⟨(checkField_checkOf h).1.symm, (checkField_checkOf h).2⟩
  · rintro ⟨rfl, h⟩
    exact checkOf_checkField h

/-! What each form of record decodes to. -/

section

variable {a0 a1 a2 n : Nat} {i j : Instr}

theorem decodeBare_eq_instr_iff : decodeBare i a0 a1 a2 = .instr j ↔ j = i ∧ a0 = 0 ∧ a1 = 0 ∧ a2 = 0 := by
  unfold decodeBare
  split <;> simp [*, eq_comm]

theorem decodeValue_eq_instr_iff {mk : Nat → Instr} :
    decodeValue mk a0 a1 a2 = .instr j ↔ j = mk a2 ∧ a0 = 0 ∧ a1 = 0 := by
  unfold decodeValue
  split <;> simp [*, eq_comm]

theorem decodeEncode_eq_instr_iff :
    decodeEncode a0 a1 a2 = .instr j ↔ ∃ c : CommandCode, j = .encode c a1 a2 ∧ a0 = c.ordinal := by
  simp only [← commandOfOrdinal_eq_some_iff]
  unfold decodeEncode
  split <;> simp [*, eq_comm]

theorem decodeStart_eq_instr_iff :
    decodeStart a0 a1 a2 = .instr j ↔ ∃ m : ConvMode, j = .start m ∧ a0 = m.number ∧ a1 = 0 ∧ a2 = 0 := by
  simp only [← modeOf_eq_some_iff]
  unfold decodeStart
  split
  · split <;> simp [*, eq_comm]
  · simp [*]

theorem decodeDataRate_eq_instr_iff :
    decodeDataRate a0 a1 a2 = .instr j ↔
      ∃ c t : ConverterCore, j = .setDataRate c t a2 ∧ a0 = c.number ∧ a1 = t.number := by
  simp only [← coreOf_eq_some_iff]
  unfold decodeDataRate
  split <;> simp [*, eq_comm]

theorem decodeSampleReady_eq_instr_iff :
    decodeSampleReady n a0 a1 a2 = .instr j ↔ ∃ c, j = .sampleReady a0 c a2 ∧ checkOf n a1 = some c := by
  unfold decodeSampleReady
  split <;> simp [*, eq_comm]

end

/-! The record of an operation and its decoding. -/

/-- The check value of a SAMPLE_READY fits `n` bits (R86, R208); every other instruction meets this. -/
def CheckFits (n : Nat) (i : Instr) : Prop := ∀ b c k, i = .sampleReady b (some c) k → c < 2 ^ n

theorem checkFits_sampleReady {n b k : Nat} {c : Option Nat} :
    CheckFits n (.sampleReady b c k) ↔ ∀ x, c = some x → x < 2 ^ n := by
  constructor
  · rintro h x rfl
    exact h b x k rfl
  · rintro h _ _ _ ⟨⟩
    exact h _ rfl

/-- An accepted record is the record of the operation it decodes to: no field is ignored (R85, R89). -/
theorem recordOf_of_decodeRecord {n op a0 a1 a2 : Nat} {i : Instr} (h : decodeRecord n op a0 a1 a2 = .instr i) :
    recordOf n i = some (op, a0, a1, a2) ∧ CheckFits n i := by
  -- The cases are numbered as the arms of `decodeRecord`, and grouped by the form of the record.
  unfold decodeRecord at h
  split at h
  case h_1 =>
    obtain ⟨c, rfl, rfl⟩ := decodeEncode_eq_instr_iff.1 h
    exact ⟨rfl, nofun⟩
  case h_3 =>
    obtain ⟨m, rfl, rfl, rfl, rfl⟩ := decodeStart_eq_instr_iff.1 h
    exact ⟨rfl, nofun⟩
  case h_7 =>
    obtain ⟨c, t, rfl, rfl, rfl⟩ := decodeDataRate_eq_instr_iff.1 h
    exact ⟨rfl, nofun⟩
  case h_18 =>
    obtain ⟨c, rfl, hc⟩ := decodeSampleReady_eq_instr_iff.1 h
    obtain ⟨rfl, hfits⟩ := checkOf_eq_some_iff.1 hc
    exact ⟨rfl, checkFits_sampleReady.2 hfits⟩
  case h_20 => cases h
  case h_2 | h_4 | h_5 | h_19 =>
    obtain ⟨rfl, rfl, rfl, rfl⟩ := decodeBare_eq_instr_iff.1 h
    exact ⟨rfl, nofun⟩
  all_goals
    obtain ⟨rfl, rfl, rfl⟩ := decodeValue_eq_instr_iff.1 h
    exact ⟨rfl, nofun⟩

/-- The record of an operation decodes to it, whatever the size of its operands (R84, R85). -/
theorem decodeRecord_of_recordOf {n op a0 a1 a2 : Nat} {i : Instr} (h : recordOf n i = some (op, a0, a1, a2))
    (hfits : CheckFits n i) : decodeRecord n op a0 a1 a2 = .instr i := by
  cases i with
  | comNop | comWrite | comUpdate | comWriteUpdate | comPowerDown | comLdacMask | comSwReset | comGain | comDcen
  | comReadback | comUpdateAllCh | comUpdateAllDac => cases h
  | encode c =>
    cases h
    exact decodeEncode_eq_instr_iff.2 ⟨c, rfl, rfl⟩
  | start m =>
    cases h
    exact decodeStart_eq_instr_iff.2 ⟨m, rfl, rfl, rfl, rfl⟩
  | setDataRate c t =>
    cases h
    exact decodeDataRate_eq_instr_iff.2 ⟨c, t, rfl, rfl, rfl⟩
  | sampleReady b c k =>
    cases h
    exact decodeSampleReady_eq_instr_iff.2 ⟨c, rfl, checkOf_checkField (checkFits_sampleReady.1 hfits)⟩
  | render | stop | read | timeout | setConvMode | setFilter | setErrCheck | setPower | setIdacMag | setIdacMux
  | setRefSrc | setDiff | setRtd | setPga | setAdcCh =>
    cases h
    rfl

theorem CheckFits.mono {m n : Nat} {i : Instr} (hmn : m ≤ n) (h : CheckFits m i) : CheckFits n i :=
  fun b c k e => (h b c k e).trans_le (Nat.pow_le_pow_right (by norm_num) hmn)

/-- Settles O2: a check value that fits CHECK_W lies below the presence bit of the record form. -/
theorem decodeOfRecordIsTheInstruction : Obligations.DecodeOfRecordIsTheInstruction := by
  unfold Obligations.DecodeOfRecordIsTheInstruction
  intro P i op a0 a1 a2 h hfits
  exact decodeRecord_of_recordOf h (CheckFits.mono (le_max_right 8 P.checkW) hfits)

/-! The request word (R84). -/

/-- The word of a request or event holds its record. -/
theorem encode_of_recordOf {P : Profile} {i : Instr} {op a0 a1 a2 : Nat}
    (h : recordOf 8 i = some (op, a0, a1, a2)) : encode P i = .word (wordOf op a0 a1 a2) := by
  have hw : encode P i = encodeWord i := by
    cases i with
    | comNop | comWrite | comUpdate | comWriteUpdate | comPowerDown | comLdacMask | comSwReset | comGain | comDcen
    | comReadback | comUpdateAllCh | comUpdateAllDac => cases h
    | _ => rfl
  rw [hw, encodeWord, h]

theorem checkField_lt {n : Nat} {c : Option Nat} (h : ∀ x, c = some x → x < 2 ^ n) :
    checkField n c < 2 ^ (n + 1) := by
  cases c with
  | none => exact Nat.two_pow_pos _
  | some x =>
    have hx := h x rfl
    simp only [checkField, pow_succ]
    omega

theorem op_lt_of_recordOf {n op a0 a1 a2 : Nat} {i : Instr} (h : recordOf n i = some (op, a0, a1, a2)) :
    op < 2 ^ 8 := by
  cases i <;> cases h <;> decide

/-- A word can spell a request or event exactly when its operands fit the word's fields (R84, R86). -/
theorem wellFormed_iff_of_recordOf {P : Profile} {i : Instr} {op a0 a1 a2 : Nat}
    (h : recordOf 8 i = some (op, a0, a1, a2)) :
    WellFormed P i = true ↔ (a0 < 2 ^ 8 ∧ a1 < 2 ^ 16 ∧ a2 < 2 ^ 32) ∧ CheckFits 8 i := by
  cases i with
  | comNop | comWrite | comUpdate | comWriteUpdate | comPowerDown | comLdacMask | comSwReset | comGain | comDcen
  | comReadback | comUpdateAllCh | comUpdateAllDac => cases h
  | encode c =>
    cases h
    have hc : c.ordinal < 256 := by cases c <;> decide
    simp [WellFormed, CheckFits, a2Fits, hc]
  | start m =>
    cases h
    have hm : m.number < 256 := by cases m <;> decide
    simp [WellFormed, CheckFits, hm]
  | setDataRate c t =>
    cases h
    have hc : c.number < 256 := by cases c <;> decide
    have ht : t.number < 65536 := by cases t <;> decide
    simp [WellFormed, CheckFits, a2Fits, hc, ht]
  | sampleReady b c k =>
    cases h
    simp only [WellFormed, a2Fits, Bool.and_eq_true, decide_eq_true_eq, Option.all_eq_true, checkFits_sampleReady]
    constructor
    · rintro ⟨⟨hb, hc⟩, hk⟩
      exact ⟨⟨hb, (checkField_lt hc).trans (by norm_num), hk⟩, hc⟩
    · rintro ⟨⟨hb, -, hk⟩, hc⟩
      exact ⟨⟨hb, hc⟩, hk⟩
  | render | stop | read | timeout | setConvMode | setFilter | setErrCheck | setPower | setIdacMag | setIdacMux
  | setRefSrc | setDiff | setRtd | setPga | setAdcCh =>
    cases h
    simp [WellFormed, CheckFits, a2Fits]

/-- The word of a record that fits its fields decodes as the record (R84). -/
theorem decodeWord_wordOf {op a0 a1 a2 : Nat} (h : op < 2 ^ 8) (h0 : a0 < 2 ^ 8) (h1 : a1 < 2 ^ 16)
    (h2 : a2 < 2 ^ 32) : decodeWord (wordOf op a0 a1 a2) = decodeRecord 8 op a0 a1 a2 := by
  obtain ⟨e, e0, e1, e2⟩ := fields_wordOf h h0 h1 h2
  rw [decodeWord, e, e0, e1, e2]

/-- Settles O3: the word's fields are the record of the operation, and a word is the word of its fields. -/
theorem acceptedWordIsItsEncoding : Obligations.AcceptedWordIsItsEncoding := by
  unfold Obligations.AcceptedWordIsItsEncoding
  intro P w i h
  obtain ⟨hrec, hfits⟩ := recordOf_of_decodeRecord h
  refine ⟨?_, (wellFormed_iff_of_recordOf hrec).2 ⟨⟨field_lt _ _ _, field_lt _ _ _, field_lt _ _ _⟩, hfits⟩⟩
  rw [encode_of_recordOf hrec, wordOf_fields]

/-! The DAC frame (R80, R114 to R116). -/

/-- The opcode table's row for a command code, with the operands of its frame. -/
def commandRow : CommandCode → Nat → Nat → Instr
  | .nop, a, d          => .comNop a d
  | .write, a, d        => .comWrite a d
  | .update, a, d       => .comUpdate a d
  | .writeUpdate, a, d  => .comWriteUpdate a d
  | .powerDown, a, d    => .comPowerDown a d
  | .ldacMask, a, d     => .comLdacMask a d
  | .swReset, a, d      => .comSwReset a d
  | .gain, a, d         => .comGain a d
  | .dcen, a, d         => .comDcen a d
  | .readback, a, d     => .comReadback a d
  | .updateAllCh, a, d  => .comUpdateAllCh a d
  | .updateAllDac, a, d => .comUpdateAllDac a d

/-- Every instruction is a row of the DAC frame, or a request or event with a record (R80, R85). -/
theorem commandRow_or_recordOf (i : Instr) :
    (∃ c a d, i = commandRow c a d) ∨ ∃ op a0 a1 a2, recordOf 8 i = some (op, a0, a1, a2) := by
  cases i with
  | comNop a d => exact .inl ⟨.nop, a, d, rfl⟩
  | comWrite a d => exact .inl ⟨.write, a, d, rfl⟩
  | comUpdate a d => exact .inl ⟨.update, a, d, rfl⟩
  | comWriteUpdate a d => exact .inl ⟨.writeUpdate, a, d, rfl⟩
  | comPowerDown a d => exact .inl ⟨.powerDown, a, d, rfl⟩
  | comLdacMask a d => exact .inl ⟨.ldacMask, a, d, rfl⟩
  | comSwReset a d => exact .inl ⟨.swReset, a, d, rfl⟩
  | comGain a d => exact .inl ⟨.gain, a, d, rfl⟩
  | comDcen a d => exact .inl ⟨.dcen, a, d, rfl⟩
  | comReadback a d => exact .inl ⟨.readback, a, d, rfl⟩
  | comUpdateAllCh a d => exact .inl ⟨.updateAllCh, a, d, rfl⟩
  | comUpdateAllDac a d => exact .inl ⟨.updateAllDac, a, d, rfl⟩
  | _ => exact .inr ⟨_, _, _, _, rfl⟩

theorem encode_commandRow (P : Profile) (c : CommandCode) (a d : Nat) :
    encode P (commandRow c a d) = encodeFrame P c a d := by
  cases c <;> rfl

/-- The operands of a well-formed row fit the fields of the frame (R10, R80). -/
theorem operands_lt_of_wellFormed {P : Profile} (hP : P.wf = true) {c : CommandCode} {a d : Nat}
    (h : WellFormed P (commandRow c a d) = true) : a < 2 ^ P.addrW ∧ d < 2 ^ P.dataW := by
  obtain ⟨-, -, -, -, -, -, haddr, hdata, -⟩ := (profile_wf_iff P).1 hP
  cases c with
  | swReset =>
    obtain ⟨rfl, rfl⟩ : a = 0 ∧ d = P.resetData := by simpa [commandRow, WellFormed] using h
    exact ⟨Nat.two_pow_pos _, hdata⟩
  | updateAllCh | updateAllDac =>
    obtain ⟨rfl, hd⟩ : a = P.broadcastAddr ∧ d < 2 ^ P.dataW := by
      simpa [commandRow, WellFormed, broadcastOperandsFit] using h
    exact ⟨haddr, hd⟩
  | _ => simpa [commandRow, WellFormed, frameOperandsFit] using h

/-- A member's frame is accepted exactly as its row, and only where the row's fixed fields allow it (R115, R130, R131). -/
theorem decodeCommand_eq_instr_iff {P : Profile} {c : CommandCode} {a d : Nat} {i : Instr} (ha : a < 2 ^ P.addrW)
    (hd : d < 2 ^ P.dataW) :
    decodeCommand P c a d = .instr i ↔ i = commandRow c a d ∧ WellFormed P (commandRow c a d) = true := by
  cases c with
  | swReset =>
    simp only [decodeCommand, commandRow, WellFormed, Bool.and_eq_true, decide_eq_true_eq]
    split <;> simp [*, eq_comm]
  | updateAllCh | updateAllDac =>
    simp only [decodeCommand, commandRow, WellFormed, broadcastOperandsFit, hd, Bool.and_eq_true, decide_eq_true_eq]
    split <;> simp [*, eq_comm]
  | _ => simp [decodeCommand, commandRow, WellFormed, frameOperandsFit, ha, hd, eq_comm]

/-- The frame of a command code decodes as the row of that code with the frame's operands (R114, R116, R117). -/
theorem decodeFrame_bytesBe_pack {P : Profile} (hP : P.wf = true) (c : CommandCode) {a d : Nat}
    (ha : a < 2 ^ P.addrW) (hd : d < 2 ^ P.dataW) :
    decodeFrame P (bytesBe (pack P (P.code c) a d) P.frameBytes) = decodeCommand P c a d := by
  have hc := code_lt hP c
  simp [decodeFrame, natBe_bytesBe (frame_fits hP (pack_lt hc ha hd)), unpack_pack hc ha hd, cmdOf_code hP]

/-- Settles O1: a row of the DAC frame through its packed fields, a request or event through the fields of its word. -/
theorem decodeOfEncodeIsTheInstruction : Obligations.DecodeOfEncodeIsTheInstruction := by
  unfold Obligations.DecodeOfEncodeIsTheInstruction
  intro P i hP hi
  obtain ⟨c, a, d, rfl⟩ | ⟨op, a0, a1, a2, hrec⟩ := commandRow_or_recordOf i
  · obtain ⟨ha, hd⟩ := operands_lt_of_wellFormed hP hi
    rw [encode_commandRow]
    exact (decodeFrame_bytesBe_pack hP c ha hd).trans ((decodeCommand_eq_instr_iff ha hd).2 ⟨rfl, hi⟩)
  · obtain ⟨⟨h0, h1, h2⟩, hfits⟩ := (wellFormed_iff_of_recordOf hrec).1 hi
    rw [encode_of_recordOf hrec]
    exact (decodeWord_wordOf (op_lt_of_recordOf hrec) h0 h1 h2).trans (decodeRecord_of_recordOf hrec hfits)

/-- An accepted frame has FRAME_W bits, and decodes as the row of the member its command field names (R65, R82). -/
theorem decodeFrame_eq_instr {P : Profile} {bytes : List Byte} {i : Instr} (h : decodeFrame P bytes = .instr i) :
    bytes.length = P.frameBytes ∧ ∃ c, P.code c = (unpack P (natBe bytes)).cmd ∧
      decodeCommand P c (unpack P (natBe bytes)).addr (unpack P (natBe bytes)).data = .instr i := by
  simp only [decodeFrame] at h
  split at h
  next => cases h
  next hlen =>
    split at h
    next c hc => exact ⟨not_not.1 hlen, c, cmdOf_member hc, h⟩
    next => cases h

/-- A list of FRAME_W / 8 bytes is a frame (R62). -/
theorem natBe_lt_frameW {P : Profile} (hP : P.wf = true) {bytes : List Byte} (h : bytes.length = P.frameBytes) :
    natBe bytes < 2 ^ P.frameW := by
  rw [← frameBytes_mul hP, ← h, pow_mul]
  exact natBe_lt bytes

/-- Settles O4: the row's frame is packed again from the fields the frame was taken apart into. -/
theorem acceptedFrameIsItsEncoding : Obligations.AcceptedFrameIsItsEncoding := by
  unfold Obligations.AcceptedFrameIsItsEncoding
  intro P bytes i hP h
  obtain ⟨hlen, c, hc, hrow⟩ := decodeFrame_eq_instr h
  have ha : (unpack P (natBe bytes)).addr < 2 ^ P.addrW := field_lt _ _ _
  have hd : (unpack P (natBe bytes)).data < 2 ^ P.dataW := field_lt _ _ _
  obtain ⟨rfl, hwf⟩ := (decodeCommand_eq_instr_iff ha hd).1 hrow
  refine ⟨?_, hwf⟩
  rw [encode_commandRow, encodeFrame, hc, pack_unpack (natBe_lt_frameW hP hlen), ← hlen, bytesBe_natBe]

/-- Settles O5, by running the decoder on the eight words. -/
theorem writtenOutWordsDecode : Obligations.WrittenOutWordsDecode := by
  unfold Obligations.WrittenOutWordsDecode
  decide

/-! The replies of requests (R87). -/

/-- A request that is not blocked replies once and holds nothing, or is a READ that holds (R87, R206). -/
theorem effect_repliesOrHolds {i : Instr} {s t : State} {o : StepResult} (he : Effect i s o)
    (hport : portOf i = .request) (hp : s.pend = false) (h : o = .next t) :
    (t.pend = false ∧ ∃ r, t.replies = s.replies ++ [r]) ∨ (i = .read ∧ t = s.withPend true) := by
  cases he with
  | blocked _ hheld => simp [hp] at hheld
  | misfit | dropped | latched | completed | timedOut | ignored => cases hport
  | readHeld =>
    cases h
    exact .inr ⟨rfl, rfl⟩
  | readDone =>
    obtain ⟨r, rfl, _⟩ := completeRead_next h
    exact .inl ⟨hp, r, rfl⟩
  | encoded | committed | setFailed | rendered | started | startFailed | stopped | readIdle =>
    cases h
    exact .inl ⟨hp, _, rfl⟩

/-- Settles O48, by the effect of the request. -/
theorem oneReplyPerRequest : Obligations.OneReplyPerRequest := by
  unfold Obligations.OneReplyPerRequest
  intro s t i hport hp h
  exact effect_repliesOrHolds (exec_effect i s) hport hp h

/-! The refusals of R89. -/

theorem exists_ordinal_eq_iff {n : Nat} : (∃ c : CommandCode, n = c.ordinal) ↔ n < 12 := by
  simp only [← commandOfOrdinal_eq_some_iff, commandOfOrdinal, ← Option.isSome_iff_exists, isSome_getElem?]
  rfl

theorem exists_modeNumber_eq_iff {n : Nat} : (∃ m : ConvMode, n = m.number) ↔ n < 2 := by
  constructor
  · rintro ⟨m, rfl⟩
    cases m <;> decide
  · intro h
    interval_cases n
    · exact ⟨.singleShot, rfl⟩
    · exact ⟨.continuous, rfl⟩

theorem exists_coreNumber_eq_iff {n : Nat} : (∃ c : ConverterCore, n = c.number) ↔ n ∈ [1, 2] := by
  constructor
  · rintro ⟨c, rfl⟩
    cases c <;> decide
  · intro h
    obtain rfl | rfl : n = 1 ∨ n = 2 := by simpa using h
    · exact ⟨.core1, rfl⟩
    · exact ⟨.core2, rfl⟩

/-- The values of a1 that spell an optional check: the presence bit is the highest, and no check is 0 (R86). -/
theorem exists_checkOf_eq_some_iff {n a : Nat} :
    (∃ c, checkOf n a = some c) ↔ ¬ (2 ^ (n + 1) ≤ a ∨ (a < 2 ^ n ∧ a ≠ 0)) := by
  unfold checkOf
  split
  next h => simp [h]
  next h =>
    split
    next h' => simp [h, h']
    next h' => split <;> simp_all

/-- The record alone is refused: R89 items 1 to 5, and the a1 form of item 6. -/
def RecordRefused (op a0 a1 a2 : Nat) : Prop :=
  op ∉ [0x01, 0x02, 0x03, 0x04, 0x05, 0x10, 0x11, 0x12, 0x13, 0x14, 0x15, 0x16, 0x17, 0x18, 0x19, 0x1A, 0x1B, 0x20,
    0x21]
  ∨ (op ∈ [0x02, 0x04, 0x05, 0x21] ∧ (a0 ≠ 0 ∨ a1 ≠ 0 ∨ a2 ≠ 0))
  ∨ (op = 0x03 ∧ (a1 ≠ 0 ∨ a2 ≠ 0))
  ∨ (op ∈ [0x10, 0x12, 0x13, 0x14, 0x15, 0x16, 0x17, 0x18, 0x19, 0x1A, 0x1B] ∧ (a0 ≠ 0 ∨ a1 ≠ 0))
  ∨ (op = 0x01 ∧ 12 ≤ a0)
  ∨ (op = 0x03 ∧ 2 ≤ a0)
  ∨ (op = 0x11 ∧ (a0 ∉ [1, 2] ∨ a1 ∉ [1, 2]))
  ∨ (op = 0x20 ∧ (2 ^ 9 ≤ a1 ∨ (a1 < 2 ^ 8 ∧ a1 ≠ 0)))

/-- A record decodes to an operation exactly when no item of R89 refuses the record alone. -/
theorem exists_decodeRecord_eq_instr_iff {op a0 a1 a2 : Nat} :
    (∃ i, decodeRecord 8 op a0 a1 a2 = .instr i) ↔ ¬ RecordRefused op a0 a1 a2 := by
  -- Again one case for each arm of `decodeRecord`, by the form of its record.
  unfold decodeRecord
  split
  case h_1 =>
    simp [RecordRefused, decodeEncode_eq_instr_iff, exists_comm (α := Instr), exists_ordinal_eq_iff]
  case h_3 =>
    simpa [RecordRefused, decodeStart_eq_instr_iff, exists_comm (α := Instr), exists_modeNumber_eq_iff]
      using and_comm
  case h_7 =>
    simp [RecordRefused, decodeDataRate_eq_instr_iff, exists_comm (α := Instr), exists_coreNumber_eq_iff,
      or_iff_not_imp_left]
  case h_18 =>
    simp [RecordRefused, decodeSampleReady_eq_instr_iff, exists_comm (α := Instr), exists_checkOf_eq_some_iff]
  case h_20 =>
    exact iff_of_false nofun (not_not.2 (.inl (by simp_all)))
  case h_2 | h_4 | h_5 | h_19 => simp [RecordRefused, decodeBare_eq_instr_iff]
  all_goals simp [RecordRefused, decodeValue_eq_instr_iff]

theorem sampleFits_iff {P : Profile} {b k : Nat} {c : Option Nat} :
    sampleFits P ⟨k, b, c⟩ = true ↔ b ∈ P.resSet ∧ k < 2 ^ b ∧ ∀ x, c = some x → x < 2 ^ P.checkW := by
  simp [sampleFits, Option.all_eq_true, and_assoc]

/-- A sample that does not fit the Profile is refused (R89 item 6, R208). -/
theorem exec_sampleReady_of_misfit {s : State} {b k : Nat} {c : Option Nat}
    (hfit : sampleFits s.profile ⟨k, b, c⟩ = false) :
    exec (.sampleReady b c k) s = .next s.withRefused := by
  simp [exec, execSampleReady, hfit, refuse]

/-- A held READ blocks every request (R89 item 7, R292). -/
theorem exec_of_blocked {i : Instr} {s : State} (hport : portOf i = .request) (hp : s.pend = true) :
    exec i s = .next s.withRefused := by
  cases i with
  | sampleReady | timeout => cases hport
  | _ => exact onRequestPort_blocked hp _

/-- Only a blocked request and a sample that does not fit write the refusal flag (R89 items 6 and 7). -/
theorem effect_refused_cases {i : Instr} {s t : State} {o : StepResult} (he : Effect i s o) (h : o = .next t) :
    t.refused = s.refused ∨ (portOf i = .request ∧ s.pend = true)
    ∨ ∃ b c k, i = .sampleReady b c k ∧ sampleFits s.profile ⟨k, b, c⟩ = false := by
  cases he with
  | blocked hport hp => exact .inr (.inl ⟨hport, hp⟩)
  | misfit hfit => exact .inr (.inr ⟨_, _, _, rfl, hfit⟩)
  | readDone =>
    obtain ⟨_, rfl, _⟩ := completeRead_next h
    exact .inl rfl
  | encoded | committed | setFailed | rendered | started | startFailed | stopped | readIdle | readHeld | dropped
  | latched | completed | timedOut | ignored =>
    cases h
    exact .inl rfl

/-- Under a well-formed Profile a spelling that names no operation only sets the flag (R288). -/
theorem step_of_rejected {s : State} {sp : Spelling} {rest : List Input} {r : Reject} (hP : s.profile.wf = true)
    (hin : s.inputs = .op sp :: rest) (hd : decode s.profile sp = .rejected r) :
    step s = .next (s.withInputs rest).withRefused := by
  simp [step, hP, takeInput, hin, hd, refuse]

/-- The events are the records of op values 0x20 and 0x21 (R85). -/
theorem portOf_eq_request_iff {n op a0 a1 a2 : Nat} {i : Instr} (h : recordOf n i = some (op, a0, a1, a2)) :
    portOf i = .request ↔ op ∉ [0x20, 0x21] := by
  cases i <;> cases h <;> simp [portOf]

/-- A request word, and a record under a CHECK_W up to 8, decode by the same map (R84, R86). -/
theorem decode_eq_decodeRecord {P : Profile} {sp : Spelling} {op a0 a1 a2 : Nat}
    (h : (∃ w : ReqWord, sp = .word w ∧ op = field w.toNat 56 8 ∧ a0 = field w.toNat 48 8
        ∧ a1 = field w.toNat 32 16 ∧ a2 = field w.toNat 0 32)
      ∨ (sp = .record op a0 a1 a2 ∧ P.checkW ≤ 8)) :
    decode P sp = decodeRecord 8 op a0 a1 a2 := by
  obtain ⟨w, rfl, rfl, rfl, rfl, rfl⟩ | ⟨rfl, hw⟩ := h
  · rfl
  · rw [decode, recordFlagBit, max_eq_left hw]

/-- A decoded operation is refused by what R89 leaves to the Profile (item 6) and to the state (item 7). -/
def OperandsRefused (s : State) (op a0 a2 : Nat) : Prop :=
  (op = 0x20 ∧ (a0 ∉ s.profile.resSet ∨ 2 ^ a0 ≤ a2)) ∨ (s.pend = true ∧ op ∉ [0x20, 0x21])

theorem exec_of_operandsRefused {n op a0 a1 a2 : Nat} {i : Instr} {s : State}
    (hi : decodeRecord n op a0 a1 a2 = .instr i) (h : OperandsRefused s op a0 a2) :
    exec i s = .next s.withRefused := by
  obtain ⟨rfl, hmisfit⟩ | ⟨hp, hop⟩ := h
  · obtain ⟨c, rfl, _⟩ := decodeSampleReady_eq_instr_iff.1 hi
    refine exec_sampleReady_of_misfit (Bool.eq_false_iff.2 fun hfit => ?_)
    obtain ⟨hbits, hcode, _⟩ := sampleFits_iff.1 hfit
    exact hmisfit.elim (absurd hbits) (absurd hcode ∘ Nat.not_lt.2)
  · exact exec_of_blocked ((portOf_eq_request_iff (recordOf_of_decodeRecord hi).1).2 hop) hp

/-- With the check field's full 8 bits, a check value that a1 can spell fits it, so nothing else is refused. -/
theorem refused_eq_of_not_operandsRefused {op a0 a1 a2 : Nat} {i : Instr} {s t : State}
    (hi : decodeRecord 8 op a0 a1 a2 = .instr i) (h : ¬ OperandsRefused s op a0 a2) (hw : 8 ≤ s.profile.checkW)
    (ht : exec i s = .next t) : t.refused = s.refused := by
  obtain ⟨hrec, hcheck⟩ := recordOf_of_decodeRecord hi
  obtain hkept | ⟨hport, hp⟩ | ⟨_, c, _, rfl, hfit⟩ := effect_refused_cases (exec_effect i s) ht
  · exact hkept
  · exact absurd (.inr ⟨hp, (portOf_eq_request_iff hrec).1 hport⟩) h
  · cases hrec
    refine absurd (.inl ⟨rfl, ?_⟩) h
    by_contra hn
    obtain ⟨hbits, hcode⟩ : a0 ∈ s.profile.resSet ∧ a2 < 2 ^ a0 := by simpa using hn
    rw [sampleFits_iff.2 ⟨hbits, hcode, checkFits_sampleReady.1 (hcheck.mono hw)⟩] at hfit
    cases hfit

theorem and_or_or_iff {o n g f : Prop} : o ∧ (n ∨ g ∨ f) ↔ (o ∧ f) ∨ (o ∧ (n ∨ g)) := by tauto

/-- Settles O9: the record is refused by the decoder, or the operation by its operands or a held READ. -/
theorem refusedRequests : Obligations.RefusedRequests := by
  unfold Obligations.RefusedRequests
  intro s sp op a0 a1 a2 rest hP hin hsp refusal
  have hd := decode_eq_decodeRecord hsp
  have hsplit : refusal ↔ RecordRefused op a0 a1 a2 ∨ OperandsRefused s op a0 a2 := by
    simp only [refusal, RecordRefused, OperandsRefused, and_or_or_iff (o := op = 0x20), or_assoc]
  rw [hsplit]
  cases hdec : decodeRecord 8 op a0 a1 a2 with
  | rejected r =>
    have hrefused : RecordRefused op a0 a1 a2 := by
      simpa [hdec] using exists_decodeRecord_eq_instr_iff (op := op) (a0 := a0) (a1 := a1) (a2 := a2)
    exact ⟨fun _ => step_of_rejected hP hin (hd.trans hdec), fun hn => absurd (.inl hrefused) hn⟩
  | instr i =>
    have haccepted := exists_decodeRecord_eq_instr_iff.1 ⟨i, hdec⟩
    rw [step_of_instr hP hin (hd.trans hdec), or_iff_right haccepted]
    exact ⟨exec_of_operandsRefused (s := s.withInputs rest) hdec,
      fun hn hw t ht => refused_eq_of_not_operandsRefused (s := s.withInputs rest) hdec hn hw ht⟩

end Sys2Proof.Laws

/-! PROOFS of the Command Encoder family (40_dac_command_encoder.md): ENCODE's outcome by its address and data checks,
said once; the twelve command rows are that call with the command fixed, and `unpack` reads its frame back. -/

namespace Sys2Proof.Laws

open Sys2Proof.Machine Sys2Proof.Safety

/-! The address classes (R111, R112). -/

theorem mem_channelCommands_iff (c : CommandCode) :
    c ∈ [CommandCode.write, .update, .writeUpdate, .readback] ↔ addressClass c = .ch := by
  cases c <;> decide

theorem mem_broadcastCommands_iff (c : CommandCode) :
    c ∈ [CommandCode.updateAllCh, .updateAllDac] ↔ addressClass c = .all := by
  cases c <;> decide

theorem mem_deviceCommands_iff (c : CommandCode) :
    c ∈ [CommandCode.nop, .powerDown, .ldacMask, .gain, .dcen] ↔ addressClass c = .dev := by
  cases c <;> decide

/-- The addresses each class rejects; the class of COM_SW_RESET rejects none. -/
theorem addrOk_eq_false_iff {P : Profile} {c : CommandCode} {a : Nat} :
    addrOk P c a = false ↔
      (addressClass c = .ch ∧ P.numDacCh ≤ a) ∨ (addressClass c = .all ∧ a ≠ P.broadcastAddr)
      ∨ (addressClass c = .dev ∧ 2 ^ P.addrW ≤ a) := by
  unfold addrOk
  split <;> simp [*]

theorem ne_swReset_of_addrOk_eq_false {P : Profile} {c : CommandCode} {a : Nat} (h : addrOk P c a = false) :
    c ≠ .swReset := by
  rintro rfl
  cases h

/-! The frame of a reply (R80, R114, R116). -/

/-- The frame as a sum of shifted fields is the packed frame (R114). -/
theorem frameReply_eq_pack {P : Profile} (k : Nat) {a d : Nat} (ha : a < 2 ^ P.addrW) (hd : d < 2 ^ P.dataW) :
    frameReply P k a d = ⟨.ok, .frame (pack P k a d) (bytesBe (pack P k a d) P.frameBytes)⟩ := by
  rw [pack_eq_add k ha hd]
  rfl

/-- Settles O6: `pack` rebuilds the frame, and CODE is injective. -/
theorem unpackIsTotal : Obligations.UnpackIsTotal := by
  unfold Obligations.UnpackIsTotal
  intro P f hP hf
  have ha : (unpack P f).addr < 2 ^ P.addrW := field_lt _ _ _
  have hd : (unpack P f).data < 2 ^ P.dataW := field_lt _ _ _
  refine ⟨field_lt _ _ _, ha, hd, ?_, ?_, fun k => cmdOf_reserved⟩
  · rw [← pack_eq_add _ ha hd, pack_unpack hf]
  · rintro _ c rfl
    exact cmdOf_code hP c

/-! ENCODE while no READ is held (R110). -/

section

variable {s : State} {c : CommandCode} {a d : Nat} (hp : s.pend = false)
include hp

theorem exec_encode_eq_encodeOp : exec (.encode c a d) s = encodeOp c a d s :=
  onRequestPort_open hp _

theorem exec_encode_swReset (hP : s.profile.wf = true) :
    exec (.encode .swReset a d) s
      = .next (s.pushReply (frameReply s.profile (s.profile.code .swReset) 0 s.profile.resetData)) := by
  obtain ⟨-, -, -, -, -, -, -, hdata, -⟩ := (profile_wf_iff _).1 hP
  rw [exec_encode_eq_encodeOp hp, frameReply_eq_pack _ (Nat.two_pow_pos _) hdata]
  rfl

theorem exec_encode_of_addrOk_eq_false (ha : addrOk s.profile c a = false) :
    exec (.encode c a d) s = .next (s.pushReply ⟨.error .invalidAddress, .operand a⟩) := by
  rw [exec_encode_eq_encodeOp hp]
  obtain ⟨hc, -⟩ | ⟨-, -, e⟩ | ⟨-, ha', -⟩ | ⟨-, ha', -⟩ := encodeOp_cases c a d s
  · exact absurd hc (ne_swReset_of_addrOk_eq_false ha)
  · exact e
  · simp [ha] at ha'
  · simp [ha] at ha'

theorem exec_encode_of_le_data (hc : c ≠ .swReset) (ha : addrOk s.profile c a = true)
    (hd : 2 ^ s.profile.dataW ≤ d) :
    exec (.encode c a d) s = .next (s.pushReply ⟨.error .invalidData, .operand d⟩) := by
  rw [exec_encode_eq_encodeOp hp]
  obtain ⟨hc', -⟩ | ⟨-, ha', -⟩ | ⟨-, -, -, e⟩ | ⟨-, -, hd', -⟩ := encodeOp_cases c a d s
  · exact absurd hc' hc
  · simp [ha] at ha'
  · exact e
  · exact absurd hd' (Nat.not_lt.2 hd)

theorem exec_encode_of_valid (hP : s.profile.wf = true) (hc : c ≠ .swReset) (ha : addrOk s.profile c a = true)
    (hd : d < 2 ^ s.profile.dataW) :
    exec (.encode c a d) s = .next (s.pushReply (frameReply s.profile (s.profile.code c) a d)) := by
  rw [exec_encode_eq_encodeOp hp, frameReply_eq_pack _ (addrOk_lt hP hc ha) hd]
  obtain ⟨hc', -⟩ | ⟨-, ha', -⟩ | ⟨-, -, hd', -⟩ | ⟨-, -, -, e⟩ := encodeOp_cases c a d s
  · exact absurd hc' hc
  · simp [ha] at ha'
  · exact absurd hd (Nat.not_lt.2 hd')
  · exact e

/-- ENCODE replies InvalidAddress exactly where `addr_ok` fails, whatever the data (R110). -/
theorem exec_encode_invalidAddress_iff :
    (∃ t, exec (.encode c a d) s = .next t ∧ t.replies = s.replies ++ [⟨.error .invalidAddress, .operand a⟩])
      ↔ addrOk s.profile c a = false := by
  constructor
  · rintro ⟨t, h, hr⟩
    have h := encodeOp_of_exec_encode h hr
    obtain ⟨-, e⟩ | ⟨-, ha, -⟩ | ⟨-, -, -, e⟩ | ⟨-, -, -, e⟩ := encodeOp_cases c a d s
    · simp [e] at h
    · exact ha
    · simp [e] at h
    · simp [e] at h
  · intro ha
    exact ⟨_, exec_encode_of_addrOk_eq_false hp ha, rfl⟩

end

/-- Settles O12: one lemma for each branch of ENCODE, and the packed frame fits FRAME_W. -/
theorem encodeFollowsItsPseudocode : Obligations.EncodeFollowsItsPseudocode := by
  unfold Obligations.EncodeFollowsItsPseudocode
  intro s c a d hP hp
  refine ⟨?_, fun _ ha => exec_encode_of_addrOk_eq_false hp ha,
    fun hc ha hd => exec_encode_of_le_data hp hc ha hd,
    fun hc ha hd => ⟨exec_encode_of_valid hp hP hc ha hd, ?_⟩⟩
  · rintro rfl
    exact exec_encode_swReset hp hP
  · rw [← pack_eq_add _ (addrOk_lt hP hc ha) hd]
    exact pack_lt (code_lt hP c) (addrOk_lt hP hc ha) hd

/-- Settles O13: ENCODE reports the address exactly where `addr_ok` fails, which is by class. -/
theorem invalidAddressByClass : Obligations.InvalidAddressByClass := by
  unfold Obligations.InvalidAddressByClass
  intro s c a d hp
  rw [exec_encode_invalidAddress_iff hp, addrOk_eq_false_iff, mem_channelCommands_iff, mem_broadcastCommands_iff,
    mem_deviceCommands_iff]

/-- Settles O18: ENCODE packs the fields that `unpack` reads, and one beyond a maximum fails its check. -/
theorem encodeThenUnpackRecovers : Obligations.EncodeThenUnpackRecovers := by
  unfold Obligations.EncodeThenUnpackRecovers
  intro s c a d hP hp
  obtain ⟨-, -, -, -, -, -, -, hdata, -⟩ := (profile_wf_iff _).1 hP
  have hzero : 0 < 2 ^ s.profile.addrW := Nat.two_pow_pos _
  refine ⟨fun hc ha hd => ?_, ?_, fun b hb => ?_, fun hc ha => exec_encode_of_le_data hp hc ha le_rfl⟩
  · have ha' := addrOk_lt hP hc ha
    have e := exec_encode_of_valid hp hP hc ha hd
    rw [frameReply_eq_pack _ ha' hd] at e
    exact ⟨_, _, e, unpack_pack (code_lt hP c) ha' hd, cmdOf_code hP c⟩
  · have e := exec_encode_swReset (a := a) (d := d) hp hP
    rw [frameReply_eq_pack _ hzero hdata] at e
    exact ⟨_, _, e, unpack_pack (code_lt hP _) hzero hdata⟩
  · refine exec_encode_of_addrOk_eq_false hp (addrOk_eq_false_iff.2 ?_)
    obtain ⟨hclass, rfl⟩ | ⟨hclass, rfl⟩ | ⟨hclass, hne⟩ := hb
    · exact .inl ⟨hclass, le_rfl⟩
    · exact .inr (.inr ⟨hclass, le_rfl⟩)
    · exact .inr (.inl ⟨hclass, by omega⟩)

/-! The command rows: ENCODE with the command fixed (R120 to R131). -/

theorem exec_commandRow (c : CommandCode) (a d : Nat) (s : State) :
    exec (commandRow c a d) s = exec (.encode c a d) s := by
  cases c <;> rfl

/-- Settles O17: COM_SW_RESET is ENCODE's first branch, and the word of P0 is computed. -/
theorem softwareResetIgnoresItsOperands : Obligations.SoftwareResetIgnoresItsOperands := by
  unfold Obligations.SoftwareResetIgnoresItsOperands
  intro s a d hP hp
  have e := (exec_commandRow .swReset a d s).trans (exec_encode_swReset hp hP)
  have hword : frameReply P0 (P0.code .swReset) 0 P0.resetData = ⟨.ok, .frame 0x601234 [0x60, 0x12, 0x34]⟩ := by
    decide
  refine ⟨e, fun h => ?_⟩
  rw [h, hword] at e
  exact e

/-- The three outcomes of a command row whose class has an address check, failed by the addresses that are not
`valid`. -/
theorem exec_commandRow_outcomes {s : State} {c : CommandCode} {a d : Nat} {valid : Prop} (hP : s.profile.wf = true)
    (hp : s.pend = false) (hclass : addressClass c ≠ .reset) (hinvalid : addrOk s.profile c a = false ↔ ¬ valid) :
    (valid → d < 2 ^ s.profile.dataW →
      exec (commandRow c a d) s = .next (s.pushReply (frameReply s.profile (s.profile.code c) a d)))
    ∧ (¬ valid → exec (commandRow c a d) s = .next (s.pushReply ⟨.error .invalidAddress, .operand a⟩))
    ∧ (valid → 2 ^ s.profile.dataW ≤ d →
      exec (commandRow c a d) s = .next (s.pushReply ⟨.error .invalidData, .operand d⟩)) := by
  have hc : c ≠ .swReset := mt (addressClass_eq_reset_iff c).2 hclass
  have hvalid : addrOk s.profile c a = true ↔ valid := by rw [← not_iff_not, Bool.not_eq_true, hinvalid]
  rw [← hvalid, Bool.not_eq_true, exec_commandRow]
  exact ⟨exec_encode_of_valid hp hP hc, exec_encode_of_addrOk_eq_false hp, exec_encode_of_le_data hp hc⟩

/-- A command with its row and its P0 code, as the statements about a class list them (R81). -/
def rowOfP0 (a d : Nat) (c : CommandCode) : Instr × CommandCode × Nat := (commandRow c a d, c, P0.code c)

/-- Settles O14: each is the row of a command of class CH. -/
theorem channelCommandsEncode : Obligations.ChannelCommandsEncode := by
  unfold Obligations.ChannelCommandsEncode
  intro s a d hP hp
  change ∀ p ∈ [CommandCode.write, .update, .writeUpdate, .readback].map (rowOfP0 a d), _
  refine List.forall_mem_map.2 fun c hmem => ⟨rfl, ?_⟩
  have hclass := (mem_channelCommands_iff c).1 hmem
  rw [← Nat.not_lt]
  exact exec_commandRow_outcomes hP hp (by simp [hclass]) (by simp [addrOk_eq_false_iff, hclass])

/-- Settles O15: each is the row of a command of class ALL. -/
theorem broadcastCommandsEncode : Obligations.BroadcastCommandsEncode := by
  unfold Obligations.BroadcastCommandsEncode
  intro s a d hP hp
  change ∀ p ∈ [CommandCode.updateAllCh, .updateAllDac].map (rowOfP0 a d), _
  refine List.forall_mem_map.2 fun c hmem => ⟨rfl, ?_⟩
  have hclass := (mem_broadcastCommands_iff c).1 hmem
  exact exec_commandRow_outcomes hP hp (by simp [hclass]) (by simp [addrOk_eq_false_iff, hclass])

/-- Settles O16: each is the row of a command of class DEV. -/
theorem deviceCommandsEncode : Obligations.DeviceCommandsEncode := by
  unfold Obligations.DeviceCommandsEncode
  intro s a d hP hp
  change ∀ p ∈ [CommandCode.nop, .powerDown, .ldacMask, .gain, .dcen].map (rowOfP0 a d), _
  refine List.forall_mem_map.2 fun c hmem => ⟨rfl, ?_⟩
  have hclass := (mem_deviceCommands_iff c).1 hmem
  rw [← Nat.not_lt]
  exact exec_commandRow_outcomes hP hp (by simp [hclass]) (by simp [addrOk_eq_false_iff, hclass])

end Sys2Proof.Laws

/-! PROOFS of the Configuration Register family (41_config_register_model.md): the three outcomes of the SET of an axis
as rules, WF after a SET of each axis that takes part in an interaction, and that a SET or a RENDER looks at nothing
but the Profile and the mirror. -/

namespace Sys2Proof.Laws

open Sys2Proof.Machine Sys2Proof.Safety

/-! One rule for each outcome of R150. -/

section

variable {s : State} {X : Axis} {v : Nat}

theorem setAxis_commits (hv : v < s.profile.domainSize X)
    (hw : s.profile.cfgWF (impliedWrites s.profile X v (s.cfg.set X v)) = true) :
    setAxis X v s = .next ((s.withCfg (impliedWrites s.profile X v (s.cfg.set X v))).pushReply ⟨.ok, .none⟩) := by
  obtain ⟨-, -, e⟩ | ⟨hv', -⟩ | ⟨-, hw', -⟩ := setAxis_cases X v s
  · exact e
  · exact absurd hv (Nat.not_lt.2 hv')
  · simp [hw] at hw'

theorem setAxis_unsupported (hv : s.profile.domainSize X ≤ v) :
    setAxis X v s = .next (s.pushReply ⟨.error .unsupportedSetting, .setting X v⟩) := by
  obtain ⟨hv', -⟩ | ⟨-, e⟩ | ⟨hv', -⟩ := setAxis_cases X v s
  · exact absurd hv' (Nat.not_lt.2 hv)
  · exact e
  · exact absurd hv' (Nat.not_lt.2 hv)

theorem setAxis_incompatible (hv : v < s.profile.domainSize X)
    (hw : s.profile.cfgWF (impliedWrites s.profile X v (s.cfg.set X v)) = false) :
    setAxis X v s = .next (s.pushReply ⟨.error .incompatibleConfiguration, .setting X v⟩) := by
  obtain ⟨-, hw', -⟩ | ⟨hv', -⟩ | ⟨-, -, e⟩ := setAxis_cases X v s
  · simp [hw] at hw'
  · exact absurd hv (Nat.not_lt.2 hv')
  · exact e

end

/-! The instructions, while no READ is held. -/

section

variable {s : State} (hp : s.pend = false)
include hp

theorem exec_setIdacMux_eq_setAxis (v : Nat) : exec (.setIdacMux v) s = setAxis .idacMux v s := onRequestPort_open hp _

theorem exec_setDiff_eq_setAxis (v : Nat) : exec (.setDiff v) s = setAxis .diff v s := onRequestPort_open hp _

theorem exec_setRtd_eq_setAxis (v : Nat) : exec (.setRtd v) s = setAxis .rtd v s := onRequestPort_open hp _

theorem exec_setDataRate_eq_setRate (n t : ConverterCore) (i : Nat) :
    exec (.setDataRate n t i) s = setRate n t i s := onRequestPort_open hp _

theorem exec_render_eq_renderOp : exec .render s = renderOp s := onRequestPort_open hp _

end

/-! The SETs without an interaction (R151 to R156, R158, R161, R162). -/

theorem impliedWrites_of_ne_rtd {X : Axis} (hX : X ≠ .rtd) (P : Profile) (v : Nat) (cfg : AdcConfig) :
    impliedWrites P X v cfg = cfg := by
  cases X with
  | rtd => exact absurd rfl hX
  | convMode | dataRate1 | dataRate2 | filter | errCheck | power | idacMag | idacMux | refSrc | diff | pga | adcCh =>
    rfl

/-- An instruction that is the SET of an axis without an interaction has two outcomes, by the axis domain alone. -/
theorem exec_plainSet {s : State} {i : Instr} (X : Axis) {v : Nat} (hp : s.pend = false)
    (hcfg : s.profile.cfgWF s.cfg = true) (hX : X ≠ .idacMux ∧ X ≠ .diff ∧ X ≠ .rtd)
    (hi : exec i s = onRequestPort (setAxis X v) s) :
    (v < s.profile.domainSize X → exec i s = .next ((s.withCfg (s.cfg.set X v)).pushReply ⟨.ok, .none⟩))
    ∧ (s.profile.domainSize X ≤ v →
      exec i s = .next (s.pushReply ⟨.error .unsupportedSetting, .setting X v⟩)) := by
  rw [hi, onRequestPort_open hp]
  refine ⟨fun hv => ?_, setAxis_unsupported⟩
  have himp := impliedWrites_of_ne_rtd hX.2.2 s.profile v (s.cfg.set X v)
  have hw := cfgWF_set_plain hcfg hv hX
  rw [setAxis_commits hv (himp.symm ▸ hw), himp]

/-- Settles O20: each is the SET of its axis, and none of the eight axes takes part in an interaction. -/
theorem plainSettersCommitOrReport : Obligations.PlainSettersCommitOrReport := by
  unfold Obligations.PlainSettersCommitOrReport
  intro s v hp hcfg
  have rule (X : Axis) {i : Instr} := exec_plainSet (i := i) X (v := v) hp hcfg
  simp only [List.forall_mem_cons]
  exact ⟨rule .convMode (by decide) rfl, rule .filter (by decide) rfl, rule .errCheck (by decide) rfl,
    rule .power (by decide) rfl, rule .idacMag (by decide) rfl, rule .refSrc (by decide) rfl,
    rule .pga (by decide) rfl, rule .adcCh (by decide) rfl, List.forall_mem_nil _⟩

/-! SET_DATA_RATE (R152). -/

section

variable {s : State} {n t : ConverterCore} {i : Nat}

theorem setRate_commits (hi : i < s.profile.domainSize (rateAxis n)) :
    setRate n n i s = .next ((s.withCfg (s.cfg.set (rateAxis n) i)).pushReply ⟨.ok, .none⟩) := by
  obtain ⟨-, -, e⟩ | ⟨hbad, -⟩ := setRate_cases n n i s
  · exact e
  · exact absurd hi (Nat.not_lt.2 (hbad.resolve_left (absurd rfl)))

theorem setRate_unsupported (hbad : t ≠ n ∨ s.profile.domainSize (rateAxis n) ≤ i) :
    setRate n t i s = .next (s.pushReply ⟨.error .unsupportedSetting, .rateSetting (rateAxis n) t i⟩) := by
  obtain ⟨ht, hi, -⟩ | ⟨-, e⟩ := setRate_cases n t i s
  · exact absurd hbad (not_or.2 ⟨not_not.2 ht, Nat.not_le.2 hi⟩)
  · exact e

end

/-- Settles O21: the two outcomes, for each core with its own tag and for each with the other's. -/
theorem dataRateKeepsItsCore : Obligations.DataRateKeepsItsCore := by
  unfold Obligations.DataRateKeepsItsCore
  intro s i hp
  simp only [exec_setDataRate_eq_setRate hp]
  exact ⟨setRate_commits (n := .core1), setRate_commits (n := .core2),
    fun hi => setRate_unsupported (n := .core1) (.inr hi), fun hi => setRate_unsupported (n := .core2) (.inr hi),
    setRate_unsupported (.inl (by decide)), setRate_unsupported (.inl (by decide))⟩

/-! WF after a SET of an axis that takes part in an interaction (R25). -/

section

variable {P : Profile} {cfg : AdcConfig} {v : Nat}

/-- Setting one axis to a code of its domain keeps every axis in its domain (R23). -/
theorem inDomains_set {X : Axis} (hdom : ∀ Y, cfg.get Y < P.domainSize Y) (hv : v < P.domainSize X) (Y : Axis) :
    (cfg.set X v).get Y < P.domainSize Y := by
  rw [get_set]
  split
  next h => exact h ▸ hv
  next => exact hdom Y

theorem cfgWF_set_idacMux_iff (hcfg : P.cfgWF cfg = true) (hv : v < P.nIdacMux) :
    P.cfgWF (cfg.set .idacMux v) = true ↔ cfg.rtd = 0 ∨ P.rtdRouting? cfg.rtd = some v := by
  obtain ⟨hdom, hclash, -⟩ := (cfgWF_iff P cfg).1 hcfg
  rw [cfgWF_iff, or_iff_not_imp_left]
  exact ⟨fun ⟨_, _, hrouting⟩ => hrouting, fun hrouting => ⟨inDomains_set (X := .idacMux) hdom hv, hclash, hrouting⟩⟩

theorem cfgWF_set_diff_iff (hcfg : P.cfgWF cfg = true) (hv : v ≤ P.nDiff) :
    P.cfgWF (cfg.set .diff v) = true ↔ ¬ (v ≠ 0 ∧ cfg.rtd ≠ 0 ∧ P.seOnly cfg.rtd = true) := by
  obtain ⟨hdom, -, hrouting⟩ := (cfgWF_iff P cfg).1 hcfg
  rw [cfgWF_iff]
  exact ⟨fun ⟨_, hclash, _⟩ => hclash,
    fun hclash => ⟨inDomains_set (X := .diff) hdom (Nat.lt_succ_of_le hv), hclash, hrouting⟩⟩

/-- Switching RTD off takes part in no interaction. -/
theorem cfgWF_set_rtd_zero (hcfg : P.cfgWF cfg = true) : P.cfgWF (cfg.set .rtd 0) = true := by
  obtain ⟨hdom, -, -⟩ := (cfgWF_iff P cfg).1 hcfg
  rw [cfgWF_iff]
  exact ⟨inDomains_set (X := .rtd) hdom (Nat.succ_pos _), fun ⟨_, h, _⟩ => h rfl, absurd rfl⟩

theorem impliedWrites_rtd_succ {k : Nat} {w : RtdWiring} (hw : P.rtdWirings[k]? = some w) :
    impliedWrites P .rtd (k + 1) cfg = cfg.set .idacMux w.routing := by
  simp [impliedWrites, rtdRouting?_succ hw]

/-- A wiring that is switched on with its routing can only clash with DIFF: the routing is in its domain (R10). -/
theorem cfgWF_set_rtd_succ_iff (hP : P.wf = true) (hcfg : P.cfgWF cfg = true) {k : Nat} {w : RtdWiring}
    (hw : P.rtdWirings[k]? = some w) :
    P.cfgWF ((cfg.set .rtd (k + 1)).set .idacMux w.routing) = true ↔ ¬ (cfg.diff ≠ 0 ∧ w.seOnly = true) := by
  obtain ⟨-, -, -, -, -, -, -, -, -, -, -, -, hroutings, -⟩ := (profile_wf_iff P).1 hP
  obtain ⟨hdom, -, -⟩ := (cfgWF_iff P cfg).1 hcfg
  obtain ⟨hk, -⟩ := List.getElem?_eq_some_iff.1 hw
  have hdom' := inDomains_set (X := .idacMux) (inDomains_set (X := .rtd) hdom (Nat.succ_lt_succ hk))
    (hroutings w (List.mem_of_getElem? hw))
  rw [cfgWF_iff, ← seOnly_succ hw]
  exact ⟨fun ⟨_, hclash, _⟩ ⟨hd, hse⟩ => hclash ⟨hd, k.succ_ne_zero, hse⟩,
    fun hclash => ⟨hdom', fun ⟨hd, _, hse⟩ => hclash ⟨hd, hse⟩, fun _ => rtdRouting?_succ hw⟩⟩

end

/-- Settles O22: by the domain, then by the routing an RTD wiring that is on implies. -/
theorem setIdacMuxKeepsTheImpliedRouting : Obligations.SetIdacMuxKeepsTheImpliedRouting := by
  unfold Obligations.SetIdacMuxKeepsTheImpliedRouting
  intro s v hp hcfg
  rw [exec_setIdacMux_eq_setAxis hp]
  refine ⟨fun hv hok => setAxis_commits hv ((cfgWF_set_idacMux_iff hcfg hv).2 hok),
    fun hv => setAxis_unsupported hv,
    fun hv hon hne => setAxis_incompatible hv ?_⟩
  exact Bool.eq_false_iff.2 (mt (cfgWF_set_idacMux_iff hcfg hv).1 (not_or.2 ⟨hon, hne⟩))

/-- Settles O23: by the domain, then by the clash with a single-ended-only wiring. -/
theorem setDiffExcludesSingleEndedRtd : Obligations.SetDiffExcludesSingleEndedRtd := by
  unfold Obligations.SetDiffExcludesSingleEndedRtd
  intro s v hp hcfg
  rw [exec_setDiff_eq_setAxis hp]
  refine ⟨fun hv hok => setAxis_commits (Nat.lt_succ_of_le hv) ((cfgWF_set_diff_iff hcfg hv).2 ?_),
    fun hv => setAxis_unsupported hv, fun hv hd hon hse => setAxis_incompatible (Nat.lt_succ_of_le hv) ?_⟩
  · rintro ⟨hd, hon, hse⟩
    simp [hd, hon, hse] at hok
  · exact Bool.eq_false_iff.2 (mt (cfgWF_set_diff_iff hcfg hv).1 (not_not.2 ⟨hd, hon, hse⟩))

/-- Settles O24: OFF and a wiring apart; a wiring commits with its routing unless it clashes with DIFF. -/
theorem setRtdWritesTheImpliedRouting : Obligations.SetRtdWritesTheImpliedRouting := by
  unfold Obligations.SetRtdWritesTheImpliedRouting
  intro s hP hp hcfg
  simp only [exec_setRtd_eq_setAxis hp]
  refine ⟨setAxis_commits (X := .rtd) (Nat.succ_pos _) (cfgWF_set_rtd_zero hcfg), ?_, ?_,
    fun _ hv => setAxis_unsupported hv⟩
  · intro k w hw hok
    obtain ⟨hk, -⟩ := List.getElem?_eq_some_iff.1 hw
    have hwf := (cfgWF_set_rtd_succ_iff hP hcfg hw).2 fun ⟨hd, hse⟩ => by simp [hd, hse] at hok
    rw [← impliedWrites_rtd_succ hw] at hwf
    rw [setAxis_commits (Nat.succ_lt_succ hk) hwf, impliedWrites_rtd_succ hw]
    rfl
  · intro k w hw hse hd
    obtain ⟨hk, -⟩ := List.getElem?_eq_some_iff.1 hw
    have hwf := mt (cfgWF_set_rtd_succ_iff hP hcfg hw).1 (not_not.2 ⟨hd, hse⟩)
    rw [← impliedWrites_rtd_succ hw, Bool.not_eq_true] at hwf
    exact setAxis_incompatible (Nat.succ_lt_succ hk) hwf

/-! Every SET: atomicity (R163) and idempotence (R164). -/

theorem isSet_eq_false_of_isEncoder {i : Instr} (h : isEncoder i = true) : isSet i = false := by
  cases i <;> simp [isEncoder] at h <;> rfl

/-- A SET that is not blocked commits or reports: the other effects belong to other instructions. -/
theorem effect_commits_or_fails {i : Instr} {s : State} {o : StepResult} (he : Effect i s o) (hi : isSet i = true)
    (hp : s.pend = false) :
    (∃ cfg, (s.profile.cfgWF s.cfg = true → s.profile.cfgWF cfg = true)
      ∧ o = .next ((s.withCfg cfg).pushReply ⟨.ok, .none⟩))
    ∨ ∃ k p, o = .next (s.pushReply ⟨.error k, p⟩) := by
  cases he with
  | committed cfg _ _ hcfg => exact .inl ⟨cfg, hcfg, rfl⟩
  | setFailed k p => exact .inr ⟨k, p, rfl⟩
  | blocked _ hheld => simp [hp] at hheld
  | encoded _ henc => simp [isSet_eq_false_of_isEncoder henc] at hi
  | misfit | rendered | started | startFailed | stopped | readIdle | readHeld | readDone | dropped | latched | completed
  | timedOut | ignored => simp [isSet] at hi

/-- Settles O25: a SET's effect is a commit that keeps WF, or an error. -/
theorem setIsAtomic : Obligations.SetIsAtomic := by
  unfold Obligations.SetIsAtomic
  intro s i hi hp hcfg
  obtain ⟨cfg, hkeeps, e⟩ | ⟨k, p, e⟩ := effect_commits_or_fails (exec_effect i s) hi hp
  · exact .inl ⟨cfg, hkeeps hcfg, e⟩
  · exact .inr ⟨k, p, e⟩

/-- A SET with its implied writes, repeated, writes what is there already. -/
theorem impliedWrites_set_idem (P : Profile) (X : Axis) (v : Nat) (cfg : AdcConfig) :
    impliedWrites P X v ((impliedWrites P X v (cfg.set X v)).set X v) = impliedWrites P X v (cfg.set X v) := by
  by_cases hX : X = .rtd
  · subst hX
    cases e : P.rtdRouting? v <;> simp [impliedWrites, e, AdcConfig.set]
  · simp only [impliedWrites_of_ne_rtd hX, set_set]

/-- `body` answers with the mirror `cfg` and the reply `r`, and repeated gives the reply `r` again and changes nothing
else. -/
def RepeatsItself (body : State → StepResult) (s : State) : Prop :=
  ∃ cfg r, body s = .next ((s.withCfg cfg).pushReply r)
    ∧ body ((s.withCfg cfg).pushReply r) = .next (((s.withCfg cfg).pushReply r).pushReply r)

/-- The gate of the request port is open to the repeated request too. -/
theorem RepeatsItself.onRequestPort {body : State → StepResult} {s : State} (h : RepeatsItself body s)
    (hp : s.pend = false) : RepeatsItself (onRequestPort body) s := by
  obtain ⟨cfg, r, e, e'⟩ := h
  refine ⟨cfg, r, by rwa [onRequestPort_open hp], ?_⟩
  rwa [onRequestPort_open (show ((s.withCfg cfg).pushReply r).pend = false from hp)]

/-- A SET to what the mirror holds already only replies. -/
theorem setAxis_of_fixed {s : State} {X : Axis} {v : Nat} (hv : v < s.profile.domainSize X)
    (hcfg : s.profile.cfgWF s.cfg = true) (hfix : impliedWrites s.profile X v (s.cfg.set X v) = s.cfg) :
    setAxis X v s = .next (s.pushReply ⟨.ok, .none⟩) := by
  rw [setAxis_commits hv (by rwa [hfix]), hfix]
  rfl

/-- A data rate that is set already stays, and is only replied to. -/
theorem setRate_of_fixed {s : State} {n : ConverterCore} {i : Nat} (hi : i < s.profile.domainSize (rateAxis n))
    (hfix : s.cfg.set (rateAxis n) i = s.cfg) : setRate n n i s = .next (s.pushReply ⟨.ok, .none⟩) := by
  rw [setRate_commits hi, hfix]
  rfl

theorem setAxis_repeatsItself (X : Axis) (v : Nat) (s : State) : RepeatsItself (setAxis X v) s := by
  obtain ⟨hv, hw, e⟩ | ⟨hv, e⟩ | ⟨hv, hw, e⟩ := setAxis_cases X v s
  · exact ⟨_, _, e, setAxis_of_fixed hv hw (impliedWrites_set_idem s.profile X v s.cfg)⟩
  · exact ⟨s.cfg, _, e, setAxis_unsupported hv⟩
  · exact ⟨s.cfg, _, e, setAxis_incompatible hv hw⟩

theorem setRate_repeatsItself (n t : ConverterCore) (k : Nat) (s : State) : RepeatsItself (setRate n t k) s := by
  obtain ⟨rfl, hk, e⟩ | ⟨hbad, e⟩ := setRate_cases n t k s
  · exact ⟨_, _, e, setRate_of_fixed hk (set_set s.cfg _ k)⟩
  · exact ⟨s.cfg, _, e, setRate_unsupported hbad⟩

theorem exec_set_repeatsItself {i : Instr} {s : State} (hi : isSet i = true) (hp : s.pend = false) :
    RepeatsItself (exec i) s := by
  obtain ⟨X, v, h⟩ | ⟨n, t, k, h⟩ := exec_set hi <;> rw [funext h]
  · exact (setAxis_repeatsItself X v s).onRequestPort hp
  · exact (setRate_repeatsItself n t k s).onRequestPort hp

/-- Settles O26: the repeated SET changes nothing but the replies, and RENDER does not look at those. -/
theorem setIsIdempotent : Obligations.SetIsIdempotent := by
  unfold Obligations.SetIsIdempotent
  intro s i hi hp
  obtain ⟨cfg, r, e, e'⟩ := exec_set_repeatsItself hi hp
  exact ⟨_, r, e, rfl, e', _, exec_render_eq_renderOp hp, exec_render_eq_renderOp hp⟩

/-! RENDER. -/

/-- Settles O27: RENDER's writes and bytes, computed along AXIS_ORDER, are those of the statement. -/
theorem renderEmitsEveryAxisInOrder : Obligations.RenderEmitsEveryAxisInOrder := by
  unfold Obligations.RenderEmitsEveryAxisInOrder
  intro s hp
  exact exec_render_eq_renderOp hp

end Sys2Proof.Laws

/-! PROOFS of the Conversion State Machine family (42_conversion_state_machine.md): one rule for each outcome of START,
STOP, READ, SAMPLE_READY and TIMEOUT, that ENCODE, the SETs and RENDER do not look at `S.CONV`, and which effects leave
CONTINUOUS or end a held READ. -/

namespace Sys2Proof.Laws

open Sys2Proof.Machine Sys2Proof.Safety

/-! START, STOP and READ while no READ is held. -/

section

variable {s : State} (hp : s.pend = false)
include hp

theorem exec_start_of_idle (m : ConvMode) (hidle : s.conv = .idle) :
    exec (.start m) s
      = .next ((s.withConv (.ofMode m)).clearSample.pushReply ⟨.ok, .command s.profile.startFrame⟩) := by
  obtain ⟨-, e⟩ | ⟨hrun, -⟩ := startOp_cases m s
  · exact (onRequestPort_open hp _).trans e
  · exact absurd hidle hrun

theorem exec_start_of_running (m : ConvMode) (hrun : s.conv ≠ .idle) :
    exec (.start m) s = .next (s.pushReply ⟨.error .alreadyRunning, .running s.conv⟩) := by
  obtain ⟨hidle, -⟩ | ⟨-, e⟩ := startOp_cases m s
  · exact absurd hidle hrun
  · exact (onRequestPort_open hp _).trans e

theorem exec_stop :
    exec .stop s = .next ((s.withConv .idle).clearSample.pushReply ⟨.ok, .command s.profile.stopFrame⟩) :=
  onRequestPort_open hp _

theorem exec_read_of_idle (hidle : s.conv = .idle) :
    exec .read s = .next (s.pushReply ⟨.error .noConversionInProgress, .none⟩) := by
  obtain ⟨-, e⟩ | ⟨hrun, -⟩ | ⟨hrun, -⟩ := readOp_cases s
  · exact (onRequestPort_open hp _).trans e
  · exact absurd hidle hrun
  · exact absurd hidle hrun

theorem exec_read_holds (hrun : s.conv ≠ .idle) (hv : s.sv = false) : exec .read s = .next (s.withPend true) := by
  obtain ⟨hidle, -⟩ | ⟨-, hv', -⟩ | ⟨-, -, e⟩ := readOp_cases s
  · exact absurd hidle hrun
  · simp [hv] at hv'
  · exact (onRequestPort_open hp _).trans e

end

/-- Settles O30: the two outcomes of START; `ConvState.ofMode` is the mode's state by its two cases. -/
theorem startBeginsOnlyFromIdle : Obligations.StartBeginsOnlyFromIdle := by
  unfold Obligations.StartBeginsOnlyFromIdle
  intro s m hp
  refine ⟨fun hidle => ?_, exec_start_of_running hp m⟩
  rw [exec_start_of_idle hp m hidle]
  cases m <;> rfl

/-- Settles O31: STOP has one outcome, whatever `S.CONV` and the sample. -/
theorem stopAlwaysReachesIdle : Obligations.StopAlwaysReachesIdle := by
  unfold Obligations.StopAlwaysReachesIdle
  intro s hp
  exact exec_stop hp

/-- The model's and the statements' `S.CONV` after a completed READ agree (R205). -/
theorem afterRead_eq_convAfterRead (c : ConvState) : c.afterRead = convAfterRead c := by
  cases c <;> rfl

/-- Settles O32: the three outcomes of READ. -/
theorem readGuardsHoldsOrCompletes : Obligations.ReadGuardsHoldsOrCompletes := by
  unfold Obligations.ReadGuardsHoldsOrCompletes
  intro s hp
  refine ⟨exec_read_of_idle hp, exec_read_holds hp, fun r c hrun hv hr hc => ?_⟩
  rw [exec_read_latched hrun hp hv hr hc, afterRead_eq_convAfterRead]
  rfl

/-! The events (R208, R209). -/

section

variable {s : State} {b k : Nat} {c : Option Nat}

theorem exec_sampleReady_of_idle (hfit : sampleFits s.profile ⟨k, b, c⟩ = true) (hidle : s.conv = .idle) :
    exec (.sampleReady b c k) s = .next s := by
  obtain ⟨hmisfit, -⟩ | ⟨-, -, e⟩ | ⟨-, hrun, -⟩ | ⟨-, hrun, -⟩ := sampleReady_cases b c k s
  · simp [hfit] at hmisfit
  · exact e
  · exact absurd hidle hrun
  · exact absurd hidle hrun

/-- A fitting sample completes a held READ, and is decoded under the `S.DEV_CFG` it is delivered under (R208). -/
theorem exec_sampleReady_completes (hfit : sampleFits s.profile ⟨k, b, c⟩ = true) (hrun : s.conv ≠ .idle)
    (hp : s.pend = true) :
    exec (.sampleReady b c k) s
      = .next (((s.clearSample.withPend false).withConv s.conv.afterRead).pushReply
          (readReply s.profile ⟨k, b, c⟩ s.devCfg)) := by
  obtain ⟨hmisfit, -⟩ | ⟨-, hidle, -⟩ | ⟨-, -, -, e⟩ | ⟨-, -, hp', -⟩ := sampleReady_cases b c k s
  · simp [hfit] at hmisfit
  · exact absurd hidle hrun
  · exact e.trans (completeRead_eq rfl rfl)
  · simp [hp] at hp'

theorem sampleFits_eq_false_iff {P : Profile} :
    sampleFits P ⟨k, b, c⟩ = false ↔ b ∉ P.resSet ∨ 2 ^ b ≤ k ∨ ∃ x, c = some x ∧ 2 ^ P.checkW ≤ x := by
  rw [← Bool.not_eq_true, sampleFits_iff]
  simp only [not_and_or, not_forall, not_lt, exists_prop]

end

/-- Settles O33: a sample that fits has three outcomes, one that does not is refused. -/
theorem sampleReadyLatchesOrCompletes : Obligations.SampleReadyLatchesOrCompletes := by
  unfold Obligations.SampleReadyLatchesOrCompletes
  intro s b k c
  refine ⟨fun hbits hcode hcheck => ?_, fun h => exec_sampleReady_of_misfit (sampleFits_eq_false_iff.2 h)⟩
  have hfit : sampleFits s.profile ⟨k, b, c⟩ = true := sampleFits_iff.2 ⟨hbits, hcode, hcheck⟩
  refine ⟨exec_sampleReady_of_idle hfit, exec_sampleReady_latches hfit, fun hrun hp => ?_⟩
  rw [exec_sampleReady_completes hfit hrun hp, afterRead_eq_convAfterRead]
  rfl

/-- Settles O34: the two outcomes of TIMEOUT. -/
theorem timeoutOnlyEndsAHeldRead : Obligations.TimeoutOnlyEndsAHeldRead := by
  unfold Obligations.TimeoutOnlyEndsAHeldRead
  intro s
  obtain ⟨hp, e⟩ | ⟨hp, e⟩ := timeout_cases s
  · exact ⟨fun _ => e, fun hp' => absurd hp' (by simp [hp])⟩
  · exact ⟨fun hp' => absurd hp' (by simp [hp]), fun _ => e⟩

/-- Settles O36: START, the sample and READ follow one another by their rules, and READ leaves IDLE. -/
theorem singleShotIsReadOnce : Obligations.SingleShotIsReadOnce := by
  unfold Obligations.SingleShotIsReadOnce
  intro s b k c hp hidle hfit
  exact ⟨_, _, _, exec_start_of_idle hp .singleShot hidle, exec_sampleReady_latches hfit nofun hp,
    exec_read_latched nofun hp rfl rfl rfl, rfl, List.append_assoc .., exec_read_of_idle hp rfl⟩

/-! ENCODE, the SETs and RENDER in every conversion state (R211). -/

/-- `body` answers a next state, and the same one whatever `S.CONV` was, but for `S.CONV` itself. -/
def IgnoresConv (body : State → StepResult) (s : State) : Prop :=
  ∃ t, body s = .next t ∧ ∀ c, body (s.withConv c) = .next (t.withConv c)

/-- The gate of the request port looks at `S.PEND` only. -/
theorem IgnoresConv.onRequestPort {body : State → StepResult} {s : State} (h : IgnoresConv body s) :
    IgnoresConv (onRequestPort body) s := by
  cases hp : s.pend with
  | true => exact ⟨_, onRequestPort_blocked hp body, fun c => onRequestPort_blocked (s := s.withConv c) hp body⟩
  | false =>
    obtain ⟨t, e, hconv⟩ := h
    refine ⟨t, (onRequestPort_open hp body).trans e, fun c => ?_⟩
    exact (onRequestPort_open (s := s.withConv c) hp body).trans (hconv c)

theorem withConv_pushReply (s : State) (c : ConvState) (r : Reply) :
    (s.pushReply r).withConv c = (s.withConv c).pushReply r := rfl

/-- ENCODE's branches and its reply depend on the Profile and the operands alone (R110). -/
theorem encodeOp_ignoresConv (c : CommandCode) (a d : Nat) (s : State) : IgnoresConv (encodeOp c a d) s := by
  obtain ⟨hc, e⟩ | ⟨hc, ha, e⟩ | ⟨hc, ha, hd, e⟩ | ⟨hc, ha, hd, e⟩ := encodeOp_cases c a d s <;>
    refine ⟨_, e, fun v => ?_⟩ <;> rw [withConv_pushReply]
  · simp [encodeOp, hc, replyOk]
  · simp [encodeOp, hc, ha, raise]
  · simp [encodeOp, hc, ha, dataOk, Nat.not_lt.2 hd, raise]
  · simp [encodeOp, hc, ha, dataOk, hd, replyOk]

theorem setAxis_ignoresConv (X : Axis) (v : Nat) (s : State) : IgnoresConv (setAxis X v) s := by
  obtain ⟨hv, hw, e⟩ | ⟨hv, e⟩ | ⟨hv, hw, e⟩ := setAxis_cases X v s
  · exact ⟨_, e, fun c => setAxis_commits (s := s.withConv c) hv hw⟩
  · exact ⟨_, e, fun c => setAxis_unsupported (s := s.withConv c) hv⟩
  · exact ⟨_, e, fun c => setAxis_incompatible (s := s.withConv c) hv hw⟩

theorem setRate_ignoresConv (n t : ConverterCore) (k : Nat) (s : State) : IgnoresConv (setRate n t k) s := by
  obtain ⟨rfl, hk, e⟩ | ⟨hbad, e⟩ := setRate_cases n t k s
  · exact ⟨_, e, fun c => setRate_commits (s := s.withConv c) hk⟩
  · exact ⟨_, e, fun c => setRate_unsupported (s := s.withConv c) hbad⟩

theorem exec_ignoresConv {i : Instr} (s : State) (hi : isEncoder i = true ∨ isSet i = true ∨ i = .render) :
    IgnoresConv (exec i) s := by
  obtain henc | hset | rfl := hi
  · obtain ⟨c, a, d, h⟩ := exec_encoder henc
    rw [funext h]
    exact (encodeOp_ignoresConv c a d s).onRequestPort
  · obtain ⟨X, v, h⟩ | ⟨n, t, k, h⟩ := exec_set hset <;> rw [funext h]
    · exact (setAxis_ignoresConv X v s).onRequestPort
    · exact (setRate_ignoresConv n t k s).onRequestPort
  · exact IgnoresConv.onRequestPort (body := renderOp) ⟨_, rfl, fun _ => rfl⟩

/-- Settles O28: the fields are kept by the effect of the instruction, and its body does not look at `S.CONV`. -/
theorem configurationIgnoresConversion : Obligations.ConfigurationIgnoresConversion := by
  unfold Obligations.ConfigurationIgnoresConversion
  intro s i hi
  obtain ⟨t, e, hconv⟩ := exec_ignoresConv s hi
  obtain ⟨t', e', hkeeps⟩ := exec_keepsConversion s hi
  cases e.symm.trans e'
  exact ⟨t, e, hkeeps.conv, hkeeps.sv, hkeeps.raw, hkeeps.acq, hkeeps.pend, hconv⟩

/-! Which effects leave CONTINUOUS, and which end a held READ. -/

/-- Of the effects in CONTINUOUS only STOP's writes another `S.CONV`: START fails, and a completed READ ends a single
shot only (R202, R204, R205). -/
theorem effect_continuous {i : Instr} {s t : State} {o : StepResult} (he : Effect i s o) (h : o = .next t)
    (hs : s.conv = .continuous) : t.conv = .continuous ∨ (t.conv = .idle ∧ i = .stop) := by
  cases he with
  | stopped =>
    cases h
    exact .inr ⟨rfl, rfl⟩
  | started _ _ hidle => simp [hs] at hidle
  | readDone =>
    obtain ⟨_, rfl, _⟩ := completeRead_next h
    exact .inl (congrArg ConvState.afterRead hs)
  | completed =>
    cases h
    exact .inl (congrArg ConvState.afterRead hs)
  | blocked | misfit | encoded | committed | setFailed | rendered | startFailed | readIdle | readHeld | dropped
  | latched | timedOut | ignored =>
    cases h
    exact .inl hs

/-- Settles O35: by the next input; the reset input leads to IDLE, and of the instructions STOP alone does. -/
theorem continuousLeftOnlyByStopOrReset : Obligations.ContinuousLeftOnlyByStopOrReset := by
  unfold Obligations.ContinuousLeftOnlyByStopOrReset
  intro s t h hs ht
  obtain rfl | ⟨hreset, rfl⟩ | ⟨i, hi, e⟩ | rfl := step_next_cases h
  · exact absurd hs ht
  · exact ⟨rfl, .inl hreset⟩
  · obtain hkept | ⟨hidle, rfl⟩ := effect_continuous (exec_effect i _) e hs
    · exact absurd hkept ht
    · exact ⟨hidle, .inr hi⟩
  · exact absurd hs ht

/-- With a READ held, only an event that replies to it clears `S.PEND`: a request is blocked (R208, R209, R292). -/
theorem effect_endsHeldRead {i : Instr} {s t : State} {o : StepResult} (he : Effect i s o) (h : o = .next t)
    (hs : s.pend = true) : t.pend = true ∨ (portOf i = .event ∧ ∃ r, t.replies = s.replies ++ [r]) := by
  cases he with
  | blocked | misfit | dropped =>
    cases h
    exact .inl hs
  | completed | timedOut =>
    cases h
    exact .inr ⟨rfl, _, rfl⟩
  | encoded | committed | setFailed | rendered | started | startFailed | stopped | readIdle | readHeld | readDone
  | latched | ignored => cases hs.symm.trans ‹s.pend = false›

/-- Settles O49: by the next input; the reset input gives no reply, and an instruction clears the flag as an event. -/
theorem heldReadEndsByEventOrReset : Obligations.HeldReadEndsByEventOrReset := by
  unfold Obligations.HeldReadEndsByEventOrReset
  intro s t h hs ht
  obtain rfl | ⟨hreset, rfl⟩ | ⟨i, hi, e⟩ | rfl := step_next_cases h
  · cases hs.symm.trans ht
  · exact .inl ⟨hreset, rfl⟩
  · obtain hheld | ⟨hport, r, hr⟩ := effect_endsHeldRead (exec_effect i _) e hs
    · cases hheld.symm.trans ht
    · exact .inr ⟨i, r, hi, hport, hr⟩
  · cases hs.symm.trans ht

end Sys2Proof.Laws

/-! PROOFS of the decode pipeline family (43_decode_pipeline.md): READ looks at the conversion and the latches alone; the
check guards the value; and the value is a fraction of full scale, whose range and extremes are those of the sign-extended
or the plain code. -/

namespace Sys2Proof.Laws

open Sys2Proof.Machine Sys2Proof.Safety

/-! READ looks at the conversion, the latches and the Profile (R250). -/

/-- READ of a sample answers a next state only when both latches hold a value (R29, R30). -/
theorem latches_of_completeRead_next {s t : State} (h : completeRead s = .next t) :
    ∃ r c, s.raw = some r ∧ s.acq = some c := by
  cases hr : s.raw with
  | none => simp [completeRead_empty (.inl hr)] at h
  | some r =>
    cases hc : s.acq with
    | none => simp [completeRead_empty (.inr hc)] at h
    | some c => exact ⟨r, c, rfl, rfl⟩

/-- Settles O38: by the three outcomes of READ; a completed one replies with the decoding of the two latches. -/
theorem readDependsOnTheLatchesAlone : Obligations.ReadDependsOnTheLatchesAlone := by
  unfold Obligations.ReadDependsOnTheLatchesAlone
  intro s s' t hp hp' hprofile hconv hsv hraw hacq h
  obtain ⟨hidle, -⟩ | ⟨hrun, hv, e⟩ | ⟨hrun, hv, -⟩ := readOp_cases s
  · cases (exec_read_of_idle hp hidle).symm.trans h
    exact ⟨_, _, exec_read_of_idle hp' (hconv ▸ hidle), rfl, rfl⟩
  · obtain ⟨r, c, hr, hc⟩ := latches_of_completeRead_next
      (e.symm.trans ((onRequestPort_open hp readOp).symm.trans h))
    cases (exec_read_latched hrun hp hv hr hc).symm.trans h
    exact ⟨_, _, exec_read_latched (hconv ▸ hrun) hp' (hsv ▸ hv) (hraw ▸ hr) (hacq ▸ hc), rfl, by rw [hprofile]; rfl⟩
  · cases (exec_read_holds hp hrun hv).symm.trans h
    exact ⟨_, [], exec_read_holds hp' (hconv ▸ hrun) (hsv ▸ hv), (List.append_nil _).symm, (List.append_nil _).symm⟩

/-! The three answers of `decode` (R240). -/

section

variable {P : Profile} {r : RawSample} {cfg : AdcConfig}

theorem decodeSample_eq_integrityCheckFailed_iff :
    decodeSample P r cfg = .integrityCheckFailed ↔ integrityOk P r cfg = false := by
  cases h : integrityOk P r cfg with
  | false => simp [decodeSample, h]
  | true => by_cases hrtd : cfg.rtd = 0 <;> simp [decodeSample, h, hrtd]

theorem decodeSample_volts (hcheck : integrityOk P r cfg = true) (hrtd : cfg.rtd = 0) :
    decodeSample P r cfg = .value .volts (sampleVolts P r cfg) := by
  simp [decodeSample, hcheck, hrtd]

theorem decodeSample_ohms (hcheck : integrityOk P r cfg = true) (hrtd : cfg.rtd ≠ 0) :
    decodeSample P r cfg = .value .ohms (sampleVolts P r cfg / P.vref cfg.refSrc * P.rRef) := by
  simp [decodeSample, hcheck, hrtd]

/-! The integrity check, by ERR_CHECK (R245). -/

theorem integrityOk_of_none (he : cfg.errCheck = 0) : integrityOk P r cfg = true := by
  simp [integrityOk, he, checkModeOf]

/-- With a check mode on, an absent or a different check field fails the check. -/
theorem integrityOk_eq_false_iff {m : CheckMode} (hm : checkModeOf cfg.errCheck = some m) :
    integrityOk P r cfg = false ↔ r.chk ≠ some (P.checkValue m (bytesBe r.code (r.bits / 8))) := by
  rw [integrityOk, hm]
  exact decide_eq_false_iff_not

/-- ERR_CHECK has the three codes NONE, CHECKSUM and CRC (R23). -/
theorem errCheck_cases (h : P.cfgWF cfg = true) : cfg.errCheck = 0 ∨ cfg.errCheck = 1 ∨ cfg.errCheck = 2 := by
  have hlt : cfg.errCheck < 3 := ((cfgWF_iff P cfg).1 h).1 .errCheck
  omega

end

/-- Settles O39: by the three codes of ERR_CHECK. -/
theorem integrityCheckGuardsTheValue : Obligations.IntegrityCheckGuardsTheValue := by
  unfold Obligations.IntegrityCheckGuardsTheValue
  intro P r cfg hcfg
  rw [decodeSample_eq_integrityCheckFailed_iff]
  obtain he | he | he := errCheck_cases hcfg
  · simp [integrityOk_of_none he, he]
  · simp [integrityOk_eq_false_iff (m := .checksum) (by rw [he]; rfl), he]
  · simp [integrityOk_eq_false_iff (m := .crc) (by rw [he]; rfl), he]

/-! Sign extension (R12). -/

theorem sext_eq_ite (n v : Nat) : sext n v = if v < 2 ^ (n - 1) then (v : Int) else v - 2 ^ n := by
  simp only [sext, ← Nat.not_lt, ite_not]

section

variable {n : Nat} (hn : 0 < n)
include hn

theorem neg_two_pow_le_sext (v : Nat) : -2 ^ (n - 1) ≤ sext n v := by
  have hpow : (2 : Int) * 2 ^ (n - 1) = 2 ^ n := mul_pow_sub_one hn.ne' 2
  have hpos : (0 : Int) < 2 ^ (n - 1) := by positivity
  rw [sext]
  split
  · have hge : (2 : Int) ^ (n - 1) ≤ v := by exact_mod_cast ‹_›
    omega
  · omega

theorem sext_mostNegative : sext n (2 ^ (n - 1)) = -2 ^ (n - 1) := by
  have hpow : (2 : Int) * 2 ^ (n - 1) = 2 ^ n := mul_pow_sub_one hn.ne' 2
  rw [sext, if_pos le_rfl]
  push_cast
  omega

end

theorem sext_lt_two_pow {n v : Nat} (hv : v < 2 ^ n) : sext n v < 2 ^ (n - 1) := by
  have hpos : (0 : Int) < 2 ^ (n - 1) := by positivity
  have hlt : (v : Int) < 2 ^ n := by exact_mod_cast hv
  rw [sext]
  split
  · omega
  · exact_mod_cast Nat.not_le.1 ‹_›

theorem sext_largest (n : Nat) : sext n (2 ^ (n - 1) - 1) = 2 ^ (n - 1) - 1 := by
  have hpos : 0 < 2 ^ (n - 1) := Nat.two_pow_pos _
  rw [sext, if_neg (by omega), Nat.cast_pred hpos]
  push_cast
  rfl

/-! The sample as a fraction of full scale (R246, R247). -/

theorem scaledCode_signed (r : RawSample) {cfg : AdcConfig} (h : cfg.diff ≠ 0 ∨ cfg.rtd ≠ 0) :
    scaledCode r cfg = sext r.bits r.code / 2 ^ (r.bits - 1) := by
  simp [scaledCode, polarity, h]

theorem scaledCode_unsigned (r : RawSample) {cfg : AdcConfig} (hd : cfg.diff = 0) (hr : cfg.rtd = 0) :
    scaledCode r cfg = r.code / (2 ^ r.bits - 1) := by
  simp [scaledCode, polarity, hd, hr]

theorem sampleVolts_eq_mul_fullScale (P : Profile) (r : RawSample) (cfg : AdcConfig) :
    sampleVolts P r cfg = scaledCode r cfg * (P.vref cfg.refSrc / P.gain cfg) :=
  mul_div_assoc ..

/-- Full scale VREF/gain is positive (R240). -/
theorem fullScale_pos {P : Profile} (hP : P.wf = true) (cfg : AdcConfig) : 0 < P.vref cfg.refSrc / P.gain cfg :=
  div_pos (vref_pos hP _) (Nat.cast_pos.2 (gain_pos hP cfg))

/-- A sample that fits has bits and a code below 2^bits (R10, R29). -/
theorem bits_pos_and_code_lt {P : Profile} {r : RawSample} (hP : P.wf = true) (hfit : sampleFits P r = true) :
    0 < r.bits ∧ r.code < 2 ^ r.bits := by
  obtain ⟨hbits, hcode, -⟩ := sampleFits_iff.1 hfit
  obtain ⟨-, -, -, -, -, -, -, -, -, -, -, -, -, -, hres, -⟩ := (profile_wf_iff P).1 hP
  exact ⟨(hres _ hbits).1, hcode⟩

/-- Signed codes span [-1, 1 - 2^-(bits-1)] (R246). -/
theorem sext_div_mem_Icc {n v : Nat} (hn : 0 < n) (hv : v < 2 ^ n) :
    (sext n v / 2 ^ (n - 1) : Rat) ∈ Set.Icc (-1) (1 - 1 / 2 ^ (n - 1)) := by
  have hpos : (0 : Rat) < 2 ^ (n - 1) := by positivity
  have hlow : (-2 ^ (n - 1) : Rat) ≤ sext n v := by exact_mod_cast neg_two_pow_le_sext hn v
  have hhigh : (sext n v : Rat) ≤ 2 ^ (n - 1) - 1 := by exact_mod_cast Int.le_sub_one_of_lt (sext_lt_two_pow hv)
  rw [one_sub_div hpos.ne']
  exact ⟨(le_div_iff₀ hpos).2 (by linarith), by gcongr⟩

/-- Unsigned codes span [0, 1] (R247). -/
theorem code_div_mem_Icc {n v : Nat} (hv : v < 2 ^ n) : (v / (2 ^ n - 1) : Rat) ∈ Set.Icc 0 1 := by
  have hle : (v : Rat) ≤ 2 ^ n - 1 := by
    rw [le_sub_iff_add_le]
    exact_mod_cast hv
  have hnonneg : (0 : Rat) ≤ v := Nat.cast_nonneg v
  exact ⟨div_nonneg hnonneg (hnonneg.trans hle), div_le_one_of_le₀ hle (hnonneg.trans hle)⟩

/-- Settles O40: the volts are the signed fraction of full scale, and the fraction's range and extremes are those of
the sign-extended code. -/
theorem signedScaling : Obligations.SignedScaling := by
  unfold Obligations.SignedScaling
  intro P r cfg hP _ hfit hcheck hdiff hrtd full x
  obtain ⟨hbits, hcode⟩ := bits_pos_and_code_lt hP hfit
  have hfull : 0 ≤ full := (fullScale_pos hP cfg).le
  have hpos : (2 ^ (r.bits - 1) : Rat) ≠ 0 := by positivity
  have hq : sampleVolts P r cfg = sext r.bits r.code / 2 ^ (r.bits - 1) * full := by
    rw [sampleVolts_eq_mul_fullScale, scaledCode_signed r (.inl hdiff)]
  obtain ⟨hlow, hhigh⟩ := sext_div_mem_Icc hbits hcode
  refine ⟨_, decodeSample_volts hcheck hrtd, ?_, ?_, ?_, fun h => ?_, fun h => ?_⟩ <;> rw [hq]
  · rw [mul_div_assoc, sext_eq_ite]
  · simpa using mul_le_mul_of_nonneg_right hlow hfull
  · exact mul_le_mul_of_nonneg_right hhigh hfull
  · rw [h, sext_mostNegative hbits]
    push_cast
    rw [neg_div, div_self hpos, neg_one_mul]
  · rw [h, sext_largest]
    push_cast
    rw [sub_div, div_self hpos, sub_mul, one_mul, one_div_mul_eq_div, div_div]

/-- Settles O41: the volts are the unsigned fraction of full scale. -/
theorem unsignedScaling : Obligations.UnsignedScaling := by
  unfold Obligations.UnsignedScaling
  intro P r cfg hP _ hfit hcheck hdiff hrtd full
  obtain ⟨hbits, hcode⟩ := bits_pos_and_code_lt hP hfit
  have hfull : 0 ≤ full := (fullScale_pos hP cfg).le
  have hq : sampleVolts P r cfg = r.code / (2 ^ r.bits - 1) * full := by
    rw [sampleVolts_eq_mul_fullScale, scaledCode_unsigned r hdiff hrtd]
  obtain ⟨hlow, hhigh⟩ := code_div_mem_Icc hcode
  refine ⟨_, decodeSample_volts hcheck hrtd, ?_, ?_, ?_, fun h => ?_⟩ <;> rw [hq]
  · rw [mul_div_assoc]
  · exact mul_nonneg hlow hfull
  · exact mul_le_of_le_one_left hfull hhigh
  · have hpos : (2 ^ r.bits - 1 : Rat) ≠ 0 := (sub_pos.2 (one_lt_pow₀ one_lt_two hbits.ne')).ne'
    rw [h, Nat.cast_pred (Nat.two_pow_pos _)]
    push_cast
    rw [div_self hpos, one_mul]

/-- Settles O42: an RTD sample is signed, and VREF cancels from the ratio. -/
theorem rtdGivesOhms : Obligations.RtdGivesOhms := by
  unfold Obligations.RtdGivesOhms
  intro P r cfg hP _ _ hcheck hrtd x
  have hvref : P.vref cfg.refSrc ≠ 0 := (vref_pos hP _).ne'
  rw [decodeSample_ohms hcheck hrtd, sampleVolts, scaledCode_signed r (.inr hrtd), sext_eq_ite, div_right_comm,
    mul_div_cancel_right₀ _ hvref]

/-- Settles O43: the code is the largest signed one of 24 bits. -/
theorem workedDecodeExample : Obligations.WorkedDecodeExample := by
  unfold Obligations.WorkedDecodeExample
  intro P cfg hcheck hdiff hrtd hgain hvref
  refine ⟨?_, by norm_num, by norm_num⟩
  rw [decodeSample_volts (integrityOk_of_none hcheck) hrtd, sampleVolts, scaledCode_signed _ (.inl hdiff), hgain, hvref,
    show (0x7FFFFF : Nat) = 2 ^ (24 - 1) - 1 from rfl, sext_largest]
  norm_num

end Sys2Proof.Laws

/-! PROOFS of the exceptions family (60_exceptions.md): what an operation that replies with an error leaves and which kinds
it raises, said once by its effect; what a held READ leaves open; the rejected spelling; and the status codes. -/

namespace Sys2Proof.Laws

open Sys2Proof.Machine Sys2Proof.Safety

/-! Error replies (R282, R284). -/

/-- The operation `i` has replied with the error `(k, p)`, and `t` is the state it leaves: the state it found but for that
reply, with R284's two exceptions. -/
inductive ErrorEffect : Instr → State → ErrorKind → Payload → State → Prop where
  /-- The operation changes nothing, and from a configuration with WF raises a kind of its row of R282. -/
  | precise {i s k p} : (s.profile.cfgWF s.cfg = true → k ∈ errorKindsOf i) →
      ErrorEffect i s k p (s.pushReply ⟨.error k, p⟩)
  /-- A READ has consumed the sample whose check failed (R205). -/
  | readFailed {s p} : ErrorEffect .read s .integrityCheckFailed p
      ((s.clearSample.withConv s.conv.afterRead).pushReply ⟨.error .integrityCheckFailed, p⟩)
  /-- A SAMPLE_READY has completed a held READ with a sample whose check failed (R208). -/
  | heldReadFailed {s p b c n} : s.pend = true → ErrorEffect (.sampleReady b c n) s .integrityCheckFailed p
      (((s.clearSample.withPend false).withConv s.conv.afterRead).pushReply ⟨.error .integrityCheckFailed, p⟩)
  /-- A TIMEOUT has completed a held READ (R209). -/
  | heldReadTimedOut {s p} : s.pend = true → ErrorEffect .timeout s .conversionTimeout p
      ((s.withPend false).pushReply ⟨.error .conversionTimeout, p⟩)

/-- Everything an operation that replies with an error can do. -/
theorem effect_errorEffect {i : Instr} {s t : State} {o : StepResult} {k : ErrorKind} {p : Payload}
    (he : Effect i s o) (h : o = .next t) (ht : t.replies = s.replies ++ [⟨.error k, p⟩]) : ErrorEffect i s k p t := by
  cases he with
  | blocked | misfit | readHeld | dropped | latched | ignored =>
    cases h
    simp at ht
  | committed | rendered | started | stopped =>
    cases h
    cases List.append_cancel_left ht
  | encoded r _ _ hkinds =>
    cases h
    cases List.append_cancel_left ht
    exact .precise fun _ => hkinds k rfl
  | setFailed _ _ _ _ hkinds =>
    cases h
    cases List.append_cancel_left ht
    exact .precise hkinds
  | startFailed | readIdle =>
    cases h
    cases List.append_cancel_left ht
    exact .precise fun _ => by simp [errorKindsOf]
  | readDone =>
    obtain ⟨r, rfl, hok | rfl⟩ := completeRead_next h <;> cases List.append_cancel_left ht
    · cases hok
    · exact .readFailed
  | @completed _ b c n _ _ hheld =>
    cases h
    have hr : readReply s.profile ⟨n, b, c⟩ s.devCfg = ⟨.error k, p⟩ := by simpa using ht
    cases hr.symm.trans (readReply_error (congrArg Reply.status hr))
    rw [hr]
    exact .heldReadFailed hheld
  | timedOut hheld =>
    cases h
    cases List.append_cancel_left ht
    exact .heldReadTimedOut hheld

/-- Settles O44, by the effect of an operation that replies with an error. -/
theorem errorsArePrecise : Obligations.ErrorsArePrecise := by
  unfold Obligations.ErrorsArePrecise
  intro s t i k p h ht
  rw [← afterRead_eq_convAfterRead]
  cases effect_errorEffect (exec_effect i s) h ht with
  | precise => exact .inl rfl
  | readFailed => exact .inr (.inl ⟨rfl, rfl, rfl⟩)
  | heldReadTimedOut hheld => exact .inr (.inr (.inl ⟨rfl, hheld, rfl, rfl⟩))
  | heldReadFailed hheld => exact .inr (.inr (.inr ⟨rfl, hheld, rfl, rfl⟩))

/-- Settles O45: a precise error has its kind from the row of R282, and the others are kinds of READ's row. -/
theorem errorKindsByOperation : Obligations.ErrorKindsByOperation := by
  unfold Obligations.ErrorKindsByOperation
  intro s t i k p hcfg h ht
  cases effect_errorEffect (exec_effect i s) h ht with
  | precise hkinds => exact hkinds hcfg
  | readFailed | heldReadFailed | heldReadTimedOut => simp [errorKindsOf]

/-! A held READ (R292). -/

/-- A TIMEOUT completes a held READ (R209). -/
theorem exec_timeout_of_held {s : State} (hp : s.pend = true) :
    exec .timeout s = .next ((s.withPend false).pushReply ⟨.error .conversionTimeout, .none⟩) :=
  (timeoutOnlyEndsAHeldRead s).1 hp

/-- Under a well-formed Profile the reset input is taken in every state (R320). -/
theorem step_of_reset {s : State} {rest : List Input} (hP : s.profile.wf = true) (hin : s.inputs = .reset :: rest) :
    step s = .next (applyReset (s.withInputs rest)) := by
  simp [step, hP, takeInput, hin]

/-- Settles O47: the gate of the request port is closed, and each event and the reset input has its rule. -/
theorem heldReadBlocksTheRequestPort : Obligations.HeldReadBlocksTheRequestPort := by
  unfold Obligations.HeldReadBlocksTheRequestPort
  intro s hp
  exact ⟨fun _ hport => exec_of_blocked hport hp,
    ⟨_, exec_timeout_of_held hp, rfl, rfl⟩,
    fun _ _ _ hrun hfit => ⟨_, exec_sampleReady_completes hfit hrun hp, rfl, rfl⟩,
    fun _ hP hin => ⟨_, step_of_reset hP hin, rfl⟩⟩

/-! A spelling that names no operation (R288, R32). -/

/-- Settles O8, by the rule of the rejected spelling. -/
theorem rejectedSpellingOnlySetsRefused : Obligations.RejectedSpellingOnlySetsRefused := by
  unfold Obligations.RejectedSpellingOnlySetsRefused
  intro s sp rest r
  exact step_of_rejected

/-! The status codes (R280, R281). -/

/-- Every status, in the document's order: OK, then the eight kinds. -/
def allStatuses : List Status :=
  [.ok, .error .invalidAddress, .error .invalidData, .error .unsupportedSetting, .error .incompatibleConfiguration,
    .error .alreadyRunning, .error .noConversionInProgress, .error .integrityCheckFailed, .error .conversionTimeout]

/-- The code of a status is its place in the document's order (R281). -/
theorem allStatuses_getElem?_code (st : Status) : allStatuses[st.code.toNat]? = some st := by
  cases st with
  | ok => rfl
  | error k => cases k <;> rfl

/-- Settles O46: a status is the entry of its code in a list of nine, so the code is below 9 and fixes it. -/
theorem statusCodesAreDistinct : Obligations.StatusCodesAreDistinct := by
  unfold Obligations.StatusCodesAreDistinct
  refine ⟨fun st => ?_, fun a b hcode => ?_, rfl, rfl⟩
  · obtain ⟨hlt, -⟩ := List.getElem?_eq_some_iff.1 (allStatuses_getElem?_code st)
    exact Nat.le_of_lt_succ hlt
  · exact Option.some.inj <|
      calc some a = allStatuses[a.code.toNat]? := (allStatuses_getElem?_code a).symm
        _ = allStatuses[b.code.toNat]? := by rw [hcode]
        _ = some b := allStatuses_getElem?_code b

end Sys2Proof.Laws

/-! PROOFS of the reset family (70_reset_and_hazards.md): the whole state after the reset input. -/

namespace Sys2Proof.Laws

open Sys2Proof.Machine

/-- Settles O50: the reset input is taken, and what `applyReset` leaves is the Profile's power-on state with the refusal
flag, the inputs still to come and the replies given carried over (R320, R321, log 12). -/
theorem resetInputRestoresTheResetState : Obligations.ResetInputRestoresTheResetState := by
  unfold Obligations.ResetInputRestoresTheResetState
  intro s rest hP hin
  calc step s = .next (applyReset (s.withInputs rest)) := step_of_reset hP hin
    _ = .next { State.powerOn s.profile with refused := s.refused, inputs := rest, replies := s.replies } := rfl

end Sys2Proof.Laws
